-- ==== Sys2Proof/Word.lean ====
section
/-! DEFINITION. The widths of the spec's values: 32-bit words, bytes, 16-bit selectors, 12-bit offsets. -/

namespace Sys2Proof

/-- A register or message-buffer word: unsigned, 32 bits, bit 0 least significant (00_scope.md R6, R11). -/
abbrev Word := BitVec 32

/-- A byte of frame data (00_scope.md R13). -/
abbrev Byte := BitVec 8

/-- The operation selector `SEL` (30_encoding.md R90). -/
abbrev Sel := BitVec 16

/-- A byte offset inside the MMIO region, or the function field of a bus or platform selector
(30_encoding.md R90, bits 11:0). -/
abbrev Offset := BitVec 12

end Sys2Proof
end

