-- ==== Sys2Proof/Syntax.lean ====
section
/-! DEFINITION. The operations of the block, as abstract syntax: register names, CAN frames, the requests the
environment issues, and `Instr`, one constructor per mnemonic of spec/opcode_table.json. -/

namespace Sys2Proof

/-- The eighteen declared registers (10_state.md R24), named as the spec names them. -/
inductive Reg where
  | mcr  -- `MCR`, module-configuration
  | ctrl1  -- `CTRL1`, control-1
  | rxmgmask  -- `RXMGMASK`, one of the RX masks
  | rx14mask  -- `RX14MASK`, one of the RX masks
  | rx15mask  -- `RX15MASK`, one of the RX masks
  | esr1  -- `ESR1`, error/status
  | imask2  -- `IMASK2`, interrupt mask of buffers 32 to 63
  | imask1  -- `IMASK1`, interrupt mask of buffers 0 to 31
  | iflag2  -- `IFLAG2`, interrupt flags of buffers 32 to 63
  | iflag1  -- `IFLAG1`, interrupt flags of buffers 0 to 31
  | ctrl2  -- `CTRL2`, control-2
  | rxfgmask  -- `RXFGMASK`, one of the RX masks
  | fdctrl  -- `FDCTRL`, CAN-FD control, extension word 0
  | fdcbt  -- `FDCBT`, extension word 1
  | fdcrc  -- `FDCRC`, extension word 2
  | erfcr  -- `ERFCR`, extension word 3
  | erfier  -- `ERFIER`, extension word 4
  | erfsr  -- `ERFSR`, extension word 5
  deriving DecidableEq, Repr

/-- Every declared register, in the order of the table of 10_state.md R24. -/
def Reg.all : List Reg :=
  [.mcr, .ctrl1, .rxmgmask, .rx14mask, .rx15mask, .esr1, .imask2, .imask1, .iflag2, .iflag1,
   .ctrl2, .rxfgmask, .fdctrl, .fdcbt, .fdcrc, .erfcr, .erfier, .erfsr]

/-- The twelve storage-only registers: no rule reads their content to decide any behaviour (10_state.md R21). -/
def Reg.isStorage : Reg → Bool
  | .ctrl1 | .ctrl2 | .rxmgmask | .rx14mask | .rx15mask | .rxfgmask => true
  | .fdctrl | .fdcbt | .fdcrc | .erfcr | .erfier | .erfsr => true
  | .mcr | .esr1 | .imask2 | .imask1 | .iflag2 | .iflag1 => false

/-- A CAN frame (00_scope.md R13): identifier, extended flag, data length code, data bytes in order.
The record also holds malformed inbound frames (a `dlc` above 8, an identifier too wide, missing data bytes),
which the block clamps (60_exceptions.md R222); the frame invariant is `Frame.Legal`. -/
structure Frame where
  id : Nat
  ext : Bool
  dlc : Nat
  data : List Byte
  deriving DecidableEq, Repr

/-- The frame operand of a request that carries none. -/
def Frame.empty : Frame := ⟨0, false, 0, []⟩

/-- The frame invariant (00_scope.md R13): `dlc` at most 8, exactly `dlc` data bytes, an identifier of 11 bits
(standard) or 29 bits (extended). -/
abbrev Frame.Legal (f : Frame) : Prop :=
  f.dlc ≤ 8 ∧ f.data.length = f.dlc ∧ f.id < (if f.ext then 2 ^ 29 else 2 ^ 11)

/-- Read or write, the direction of an MMIO access (00_scope.md R9). -/
inductive Dir where
  | read
  | write
  deriving DecidableEq, Repr

/-- The access sizes the block refuses (30_encoding.md R90, `size` = `01`, `10`, `11`). -/
inductive SubSize where
  | one
  | two
  | eight
  deriving DecidableEq, Repr

/-- What an agent presents to the block when it issues one operation (30_encoding.md R91): the selector, the 32-bit
data operand of an MMIO write, the frame operand of a delivery. DESIGN CHOICE (log 5): operands stand beside the
selector; an operation that takes none ignores them. -/
structure Request where
  sel : Sel
  data : Word
  frame : Frame
  deriving DecidableEq, Repr

/-- The operations of the block (00_scope.md R5) and, as the table lists them, the selectors that name none. One
constructor per mnemonic of spec/opcode_table.json; the table's several rows of one mnemonic are ranges of its operand
(log 18). `V` is the 32-bit data operand of an `MW` operation. -/
inductive Instr where
  /-- `RD.MCR` (40_register_bank.md R121). -/
  | rdMcr
  /-- `WR.MCR` (40_register_bank.md R121). -/
  | wrMcr (V : Word)
  /-- `RD.CTRL1` (40_register_bank.md R123). -/
  | rdCtrl1
  /-- `WR.CTRL1` (40_register_bank.md R123). -/
  | wrCtrl1 (V : Word)
  /-- `RD.RXMGMASK` (40_register_bank.md R124). -/
  | rdRxmgmask
  /-- `WR.RXMGMASK` (40_register_bank.md R124). -/
  | wrRxmgmask (V : Word)
  /-- `RD.RX14MASK` (40_register_bank.md R125). -/
  | rdRx14mask
  /-- `WR.RX14MASK` (40_register_bank.md R125). -/
  | wrRx14mask (V : Word)
  /-- `RD.RX15MASK` (40_register_bank.md R126). -/
  | rdRx15mask
  /-- `WR.RX15MASK` (40_register_bank.md R126). -/
  | wrRx15mask (V : Word)
  /-- `RD.ESR1` (40_register_bank.md R127). -/
  | rdEsr1
  /-- `WR.ESR1` (40_register_bank.md R127). -/
  | wrEsr1 (V : Word)
  /-- `RD.IMASK2` (40_register_bank.md R128). -/
  | rdImask2
  /-- `WR.IMASK2` (40_register_bank.md R128). -/
  | wrImask2 (V : Word)
  /-- `RD.IMASK1` (40_register_bank.md R129). -/
  | rdImask1
  /-- `WR.IMASK1` (40_register_bank.md R129). -/
  | wrImask1 (V : Word)
  /-- `RD.IFLAG2` (40_register_bank.md R130). -/
  | rdIflag2
  /-- `WR.IFLAG2` (40_register_bank.md R130). -/
  | wrIflag2 (V : Word)
  /-- `RD.IFLAG1` (40_register_bank.md R131). -/
  | rdIflag1
  /-- `WR.IFLAG1` (40_register_bank.md R131). -/
  | wrIflag1 (V : Word)
  /-- `RD.CTRL2` (40_register_bank.md R132). -/
  | rdCtrl2
  /-- `WR.CTRL2` (40_register_bank.md R132). -/
  | wrCtrl2 (V : Word)
  /-- `RD.RXFGMASK` (40_register_bank.md R133). -/
  | rdRxfgmask
  /-- `WR.RXFGMASK` (40_register_bank.md R133). -/
  | wrRxfgmask (V : Word)
  /-- `RD.FDCTRL` (40_register_bank.md R134). -/
  | rdFdctrl
  /-- `WR.FDCTRL` (40_register_bank.md R134). -/
  | wrFdctrl (V : Word)
  /-- `RD.FDCBT` (40_register_bank.md R135). -/
  | rdFdcbt
  /-- `WR.FDCBT` (40_register_bank.md R135). -/
  | wrFdcbt (V : Word)
  /-- `RD.FDCRC` (40_register_bank.md R136). -/
  | rdFdcrc
  /-- `WR.FDCRC` (40_register_bank.md R136). -/
  | wrFdcrc (V : Word)
  /-- `RD.ERFCR` (40_register_bank.md R137). -/
  | rdErfcr
  /-- `WR.ERFCR` (40_register_bank.md R137). -/
  | wrErfcr (V : Word)
  /-- `RD.ERFIER` (40_register_bank.md R138). -/
  | rdErfier
  /-- `WR.ERFIER` (40_register_bank.md R138). -/
  | wrErfier (V : Word)
  /-- `RD.ERFSR` (40_register_bank.md R139). -/
  | rdErfsr
  /-- `WR.ERFSR` (40_register_bank.md R139). -/
  | wrErfsr (V : Word)
  /-- `RD.MB`, read of buffer word `i` (41_message_buffer_store.md R170). -/
  | rdMb (i : Fin 512)
  /-- `WR.MB`, write of buffer word `i` (41_message_buffer_store.md R171). -/
  | wrMb (i : Fin 512) (V : Word)
  /-- `RD.UNDECL`, read of an undeclared offset (43_controller_core.md R202). -/
  | rdUndecl (off : Offset)
  /-- `WR.UNDECL`, write to an undeclared offset (43_controller_core.md R203). -/
  | wrUndecl (off : Offset) (V : Word)
  /-- `BUS.ACCEPT`, the query `canAccept()` (42_bus_client_receive.md R190). -/
  | busAccept
  /-- `BUS.RX`, the delivery `onFrameReceived(f)` (42_bus_client_receive.md R192). -/
  | busRx (f : Frame)
  /-- `RESET`, the hard reset (43_controller_core.md R207). -/
  | reset
  /-- `REFUSED.SIZE`, an MMIO access of 1, 2 or 8 bytes (43_controller_core.md R204 (a)). -/
  | refusedSize (dir : Dir) (size : SubSize) (off : Offset)
  /-- `REFUSED.ALIGN`, an MMIO access of 4 bytes at an offset that is no multiple of 4 (R204 (b)). -/
  | refusedAlign (dir : Dir) (off : Offset)
  /-- `REFUSED.BUS`, a class `10` selector that names no operation (R204 (c)). -/
  | refusedBus (size : BitVec 2) (func : Offset)
  /-- `REFUSED.PLATFORM`, a class `11` selector that names no operation (R204 (c)). -/
  | refusedPlatform (size : BitVec 2) (func : Offset)
  deriving DecidableEq, Repr

/-- The agents that issue operations (00_scope.md R10). -/
inductive Agent where
  | host
  | bus
  | platform
  deriving DecidableEq, Repr

end Sys2Proof
end

