-- ==== Sys2Proof/Config.lean ====
section
/-! DEFINITION. The configuration record of the block (00_scope.md R7) and the constraints an assignment of it must
satisfy (00_scope.md R8). The spec's default values are `Config.default` in Machine/Defaults.lean. -/

namespace Sys2Proof

/-- The combine policy of a register write (40_register_bank.md R120). -/
inductive Policy where
  /-- "plain overwrite for control registers" -/
  | overwrite
  /-- "write-1-to-clear for flag registers" -/
  | w1c
  deriving DecidableEq, Repr

/-- One row of the declarative register table (10_state.md R24): `OFF[r]`, `POLICY[r]`, `WMASK[r]`, `RESET[r]`. -/
structure RegDecl where
  offset : Offset
  policy : Policy
  wmask : Word
  reset : Word
  deriving DecidableEq, Repr

/-- The parameters of 00_scope.md R7, fixed for one controller and changed by no operation (10_state.md R35). The
document itself fixes `MB_COUNT` = 128, `EXT_BASE` = `0xC00`, `EXT_COUNT` = 6 and `FLAG_GROUPS` = 2, so these four
are the constants below and no fields. -/
structure Config where
  /-- `REGION_SIZE`: bytes of the MMIO region. -/
  regionSize : Nat
  /-- `MB_BASE`: byte offset of message-buffer word 0. -/
  mbBase : Nat
  /-- `OFF[r]`, `POLICY[r]`, `WMASK[r]`, `RESET[r]`. -/
  decl : Reg → RegDecl
  mdisBit : Nat
  frzBit : Nat
  haltBit : Nat
  notrdyBit : Nat
  softrstBit : Nat
  frzackBit : Nat
  lpmackBit : Nat
  codeHi : Nat
  codeLo : Nat
  dlcHi : Nat
  dlcLo : Nat
  ideBit : Nat
  edlBit : Nat
  /-- `CODE_TX_DATA`: the "transmit data" code. -/
  codeTxData : Nat
  /-- `RX_SLOT`: buffer index of the single legacy receive slot. -/
  rxSlot : Nat
  rxFlagGroup : Nat
  rxFlagBit : Nat

/-- `MB_COUNT`: buffers in the store (00_scope.md R6). -/
def mbCount : Nat := 128

/-- `EXT_BASE`: byte offset of the extension block (00_scope.md R6). -/
def extBase : Nat := 0xC00

/-- `EXT_COUNT`: registers of the extension block (00_scope.md R6). -/
def extCount : Nat := 6

/-- `FLAG_GROUPS`: populated interrupt groups ("interrupt mask/flag ×2", 00_scope.md R7). -/
def flagGroups : Nat := 2

/-- The positions of the seven named `MCR` bits. -/
def Config.mcrBits (c : Config) : List Nat :=
  [c.mdisBit, c.frzBit, c.haltBit, c.notrdyBit, c.softrstBit, c.frzackBit, c.lpmackBit]

/-- The constraints of 00_scope.md R8, one field per clause. The fields after `rxSlot_flagged` say what the rules take
for granted of every assignment (log 15): positions lie inside a word, fields have their documented widths, offsets are
aligned, distinct and inside the two register ranges, and the policies are the document's ("plain overwrite for control
registers, write-1-to-clear for flag registers", R120). -/
structure Config.Valid (c : Config) : Prop where
  mcrBits_distinct : c.mcrBits.Nodup
  status_bits_masked : (c.decl .mcr).wmask.getLsbD c.notrdyBit = false ∧
    (c.decl .mcr).wmask.getLsbD c.frzackBit = false ∧ (c.decl .mcr).wmask.getLsbD c.lpmackBit = false
  control_bits_writable : (c.decl .mcr).wmask.getLsbD c.mdisBit = true ∧
    (c.decl .mcr).wmask.getLsbD c.frzBit = true ∧ (c.decl .mcr).wmask.getLsbD c.haltBit = true ∧
    (c.decl .mcr).wmask.getLsbD c.softrstBit = true
  reset_disabled : (c.decl .mcr).reset.getLsbD c.mdisBit = true
  reset_no_softrst : (c.decl .mcr).reset.getLsbD c.softrstBit = false
  reset_lpmack : (c.decl .mcr).reset.getLsbD c.lpmackBit = (c.decl .mcr).reset.getLsbD c.mdisBit
  reset_frzack : (c.decl .mcr).reset.getLsbD c.frzackBit =
    ((c.decl .mcr).reset.getLsbD c.haltBit && (c.decl .mcr).reset.getLsbD c.frzBit)
  reset_notrdy : (c.decl .mcr).reset.getLsbD c.notrdyBit = ((c.decl .mcr).reset.getLsbD c.mdisBit ||
    ((c.decl .mcr).reset.getLsbD c.haltBit && (c.decl .mcr).reset.getLsbD c.frzBit))
  code_dlc_apart : c.codeHi < c.dlcLo ∨ c.dlcHi < c.codeLo
  ide_apart : (c.ideBit < c.codeLo ∨ c.codeHi < c.ideBit) ∧ (c.ideBit < c.dlcLo ∨ c.dlcHi < c.ideBit) ∧
    c.ideBit ≠ c.edlBit
  edl_apart : (c.edlBit < c.codeLo ∨ c.codeHi < c.edlBit) ∧ (c.edlBit < c.dlcLo ∨ c.dlcHi < c.edlBit)
  regions_apart : 0x80 ≤ c.mbBase ∧ (c.mbBase + 16 * mbCount ≤ extBase ∨ extBase + 4 * extCount ≤ c.mbBase)
  regions_inside : c.mbBase + 16 * mbCount ≤ c.regionSize ∧ extBase + 4 * extCount ≤ c.regionSize
  mbBase_aligned : c.mbBase % 16 = 0
  rxSlot_flagged : c.rxSlot < 32 * flagGroups
  mcrBits_inside : ∀ b ∈ c.mcrBits, b < 32
  buffer_bits_inside : c.codeHi < 32 ∧ c.dlcHi < 32 ∧ c.ideBit < 32 ∧ c.edlBit < 32
  code_width : c.codeHi = c.codeLo + 3
  dlc_width : c.dlcHi = c.dlcLo + 3
  code_value : c.codeTxData < 16
  rxFlag_inside : (c.rxFlagGroup = 1 ∨ c.rxFlagGroup = 2) ∧ c.rxFlagBit < 32
  regionSize_selectable : c.regionSize ≤ 0x1000
  offsets_aligned : ∀ r ∈ Reg.all, (c.decl r).offset.toNat % 4 = 0
  offsets_placed : ∀ r ∈ Reg.all, (c.decl r).offset.toNat ≤ 0x7C ∨
    (extBase ≤ (c.decl r).offset.toNat ∧ (c.decl r).offset.toNat < extBase + 4 * extCount)
  offsets_distinct : (Reg.all.map fun r => (c.decl r).offset).Nodup
  control_overwrites : (c.decl .mcr).policy = .overwrite ∧ (c.decl .imask1).policy = .overwrite ∧
    (c.decl .imask2).policy = .overwrite
  flags_clear : (c.decl .iflag1).policy = .w1c ∧ (c.decl .iflag2).policy = .w1c

end Sys2Proof
end

