-- ==== Sys2Proof/Machine/Defaults.lean ====
section
/-! DEFINITION. The default parameter record of the spec (00_scope.md R7, table of 10_state.md R24). The machine runs at
these values (log 6); they stand in this file so that one shown wrong can be mended. -/

namespace Sys2Proof

/-- A row of the register table: offset and reset value, full write mask, overwrite (92_eei_decisions.md D5, D6). -/
def plainDecl (offset : Offset) : RegDecl := ⟨offset, .overwrite, 0xFFFFFFFF#32, 0#32⟩

/-- A row whose policy is write-1-to-clear, full write mask (10_state.md R28, R30). -/
def flagDecl (offset : Offset) : RegDecl := ⟨offset, .w1c, 0xFFFFFFFF#32, 0#32⟩

/-- The table of 10_state.md R24: offset, `POLICY`, `WMASK`, `RESET` of each declared register. -/
def defaultDecl : Reg → RegDecl
  | .mcr => ⟨0x000#12, .overwrite, 0xF6EFFFFF#32, 0x88100000#32⟩
  | .ctrl1 => plainDecl 0x004#12
  | .rxmgmask => plainDecl 0x010#12
  | .rx14mask => plainDecl 0x014#12
  | .rx15mask => plainDecl 0x018#12
  | .esr1 => flagDecl 0x020#12
  | .imask2 => plainDecl 0x024#12
  | .imask1 => plainDecl 0x028#12
  | .iflag2 => flagDecl 0x02C#12
  | .iflag1 => flagDecl 0x030#12
  | .ctrl2 => plainDecl 0x034#12
  | .rxfgmask => plainDecl 0x048#12
  | .fdctrl => plainDecl 0xC00#12
  | .fdcbt => plainDecl 0xC04#12
  | .fdcrc => plainDecl 0xC08#12
  | .erfcr => plainDecl 0xC0C#12
  | .erfier => plainDecl 0xC10#12
  | .erfsr => plainDecl 0xC14#12

/-- The defaults of 00_scope.md R7. -/
def Config.default : Config where
  regionSize := 0x1000
  mbBase := 0x080
  decl := defaultDecl
  mdisBit := 31
  frzBit := 30
  haltBit := 28
  notrdyBit := 27
  softrstBit := 25
  frzackBit := 24
  lpmackBit := 20
  codeHi := 27
  codeLo := 24
  dlcHi := 19
  dlcLo := 16
  ideBit := 21
  edlBit := 31
  codeTxData := 0xC
  rxSlot := 0
  rxFlagGroup := 1
  rxFlagBit := 0

end Sys2Proof
end

