-- ==== Sys2Proof/WellFormed.lean ====
section
/-! DEFINITION. Which terms of `Instr` are operations (or refused selectors) of the table: the checks on operands that the
types alone do not make. -/

namespace Sys2Proof

/-- An offset the block admits: a multiple of 4 (20_memory.md R63). -/
def Offset.aligned (off : Offset) : Bool := off.toNat % 4 == 0

/-- The offset of a declared register (10_state.md R24). -/
def Offset.isRegister (off : Offset) : Bool := Reg.all.any fun r => (Config.default.decl r).offset == off

/-- An offset of the message-buffer window, `0x080` to `0x87C` (20_memory.md R68). -/
def Offset.inWindow (off : Offset) : Bool :=
  decide (Config.default.mbBase ≤ off.toNat) && decide (off.toNat < Config.default.mbBase + 16 * mbCount)

/-- An undeclared offset: aligned, no register, not in the window (43_controller_core.md R202). -/
def Offset.isUndeclared (off : Offset) : Bool := off.aligned && !off.isRegister && !off.inWindow

/-- The checks on operands: an undeclared offset is one (R202), a misaligned offset is misaligned (R204 (b)), a
refused bus or platform selector is none of the three that name an operation (R204 (c)). -/
def Instr.wf : Instr → Bool
  | .rdUndecl off => off.isUndeclared
  | .wrUndecl off _ => off.isUndeclared
  | .refusedAlign _ off => !off.aligned
  | .refusedBus size func => !(size == 0#2 && (func == 0#12 || func == 1#12))
  | .refusedPlatform size func => !(size == 0#2 && func == 0#12)
  | .rdMcr | .rdCtrl1 | .rdRxmgmask | .rdRx14mask | .rdRx15mask | .rdEsr1 | .rdImask2 | .rdImask1 | .rdIflag2 => true
  | .rdIflag1 | .rdCtrl2 | .rdRxfgmask | .rdFdctrl | .rdFdcbt | .rdFdcrc | .rdErfcr | .rdErfier | .rdErfsr => true
  | .wrMcr _ | .wrCtrl1 _ | .wrRxmgmask _ | .wrRx14mask _ | .wrRx15mask _ | .wrEsr1 _ | .wrImask2 _ => true
  | .wrImask1 _ | .wrIflag2 _ | .wrIflag1 _ | .wrCtrl2 _ | .wrRxfgmask _ | .wrFdctrl _ | .wrFdcbt _ => true
  | .wrFdcrc _ | .wrErfcr _ | .wrErfier _ | .wrErfsr _ => true
  | .rdMb _ | .wrMb _ _ | .busAccept | .busRx _ | .reset | .refusedSize _ _ _ => true

end Sys2Proof
end

