-- ==== Sys2Proof/Decode.lean ====
section
/-! DEFINITION. The decoder, total on every request and built on the priority-ordered table of spec/opcode_table.json
(30_encoding.md R92), and after it the encoder, built on the selector values of 30_encoding.md R94. -/

namespace Sys2Proof

/-! ### The opcode table -/

/-- What a row of the opcode table stands for: its mnemonic, with the register it names. -/
inductive RowKind where
  | refusedSize
  | refusedAlign
  | rd (r : Reg)
  | wr (r : Reg)
  | rdMb
  | wrMb
  | rdUndecl
  | wrUndecl
  | busAccept
  | busRx
  | refusedBus
  | reset
  | refusedPlatform
  deriving DecidableEq, Repr

/-- A row of spec/opcode_table.json: it applies to a selector `SEL` when `SEL & mask = pattern` (30_encoding.md R92). -/
structure OpcodeRow where
  mask : Sel
  pattern : Sel
  kind : RowKind
  deriving DecidableEq, Repr

/-- Whether a row applies to a selector (30_encoding.md R92). -/
def OpcodeRow.applies (sel : Sel) (row : OpcodeRow) : Bool := sel &&& row.mask == row.pattern

/-- The refusal rows for size and alignment, first in priority (R92). -/
def refusalRows : List OpcodeRow :=
  [⟨0x9000#16, 0x1000#16, .refusedSize⟩, ⟨0xA000#16, 0x2000#16, .refusedSize⟩,
   ⟨0x8001#16, 0x0001#16, .refusedAlign⟩, ⟨0x8002#16, 0x0002#16, .refusedAlign⟩]

/-- The exact-offset rows of the register file. -/
def registerFileRows : List OpcodeRow :=
  [⟨0xFFFF#16, 0x0000#16, .rd .mcr⟩, ⟨0xFFFF#16, 0x4000#16, .wr .mcr⟩,
   ⟨0xFFFF#16, 0x0004#16, .rd .ctrl1⟩, ⟨0xFFFF#16, 0x4004#16, .wr .ctrl1⟩,
   ⟨0xFFFF#16, 0x0010#16, .rd .rxmgmask⟩, ⟨0xFFFF#16, 0x4010#16, .wr .rxmgmask⟩,
   ⟨0xFFFF#16, 0x0014#16, .rd .rx14mask⟩, ⟨0xFFFF#16, 0x4014#16, .wr .rx14mask⟩,
   ⟨0xFFFF#16, 0x0018#16, .rd .rx15mask⟩, ⟨0xFFFF#16, 0x4018#16, .wr .rx15mask⟩,
   ⟨0xFFFF#16, 0x0020#16, .rd .esr1⟩, ⟨0xFFFF#16, 0x4020#16, .wr .esr1⟩,
   ⟨0xFFFF#16, 0x0024#16, .rd .imask2⟩, ⟨0xFFFF#16, 0x4024#16, .wr .imask2⟩,
   ⟨0xFFFF#16, 0x0028#16, .rd .imask1⟩, ⟨0xFFFF#16, 0x4028#16, .wr .imask1⟩,
   ⟨0xFFFF#16, 0x002C#16, .rd .iflag2⟩, ⟨0xFFFF#16, 0x402C#16, .wr .iflag2⟩,
   ⟨0xFFFF#16, 0x0030#16, .rd .iflag1⟩, ⟨0xFFFF#16, 0x4030#16, .wr .iflag1⟩,
   ⟨0xFFFF#16, 0x0034#16, .rd .ctrl2⟩, ⟨0xFFFF#16, 0x4034#16, .wr .ctrl2⟩,
   ⟨0xFFFF#16, 0x0048#16, .rd .rxfgmask⟩, ⟨0xFFFF#16, 0x4048#16, .wr .rxfgmask⟩]

/-- The exact-offset rows of the extension block. -/
def extensionRows : List OpcodeRow :=
  [⟨0xFFFF#16, 0x0C00#16, .rd .fdctrl⟩, ⟨0xFFFF#16, 0x4C00#16, .wr .fdctrl⟩,
   ⟨0xFFFF#16, 0x0C04#16, .rd .fdcbt⟩, ⟨0xFFFF#16, 0x4C04#16, .wr .fdcbt⟩,
   ⟨0xFFFF#16, 0x0C08#16, .rd .fdcrc⟩, ⟨0xFFFF#16, 0x4C08#16, .wr .fdcrc⟩,
   ⟨0xFFFF#16, 0x0C0C#16, .rd .erfcr⟩, ⟨0xFFFF#16, 0x4C0C#16, .wr .erfcr⟩,
   ⟨0xFFFF#16, 0x0C10#16, .rd .erfier⟩, ⟨0xFFFF#16, 0x4C10#16, .wr .erfier⟩,
   ⟨0xFFFF#16, 0x0C14#16, .rd .erfsr⟩, ⟨0xFFFF#16, 0x4C14#16, .wr .erfsr⟩]

/-- The message-buffer window: one row per power-of-two sub-range of `0x080` to `0x87C`. -/
def windowRows : List OpcodeRow :=
  [⟨0xFF80#16, 0x0080#16, .rdMb⟩, ⟨0xFF80#16, 0x4080#16, .wrMb⟩,
   ⟨0xFF00#16, 0x0100#16, .rdMb⟩, ⟨0xFF00#16, 0x4100#16, .wrMb⟩,
   ⟨0xFE00#16, 0x0200#16, .rdMb⟩, ⟨0xFE00#16, 0x4200#16, .wrMb⟩,
   ⟨0xFC00#16, 0x0400#16, .rdMb⟩, ⟨0xFC00#16, 0x4400#16, .wrMb⟩,
   ⟨0xFF80#16, 0x0800#16, .rdMb⟩, ⟨0xFF80#16, 0x4800#16, .wrMb⟩]

/-- The default rows for undeclared offsets, then the bus and platform rows and their reserved remainders. -/
def defaultRows : List OpcodeRow :=
  [⟨0xC000#16, 0x0000#16, .rdUndecl⟩, ⟨0xC000#16, 0x4000#16, .wrUndecl⟩,
   ⟨0xFFFF#16, 0x8000#16, .busAccept⟩, ⟨0xFFFF#16, 0x8001#16, .busRx⟩, ⟨0xC000#16, 0x8000#16, .refusedBus⟩,
   ⟨0xFFFF#16, 0xC000#16, .reset⟩, ⟨0xC000#16, 0xC000#16, .refusedPlatform⟩]

/-- spec/opcode_table.json, in its priority order. -/
def opcodeTable : List OpcodeRow :=
  refusalRows ++ registerFileRows ++ extensionRows ++ windowRows ++ defaultRows

/-- The first row that applies decides (30_encoding.md R92). Every selector meets a row ("the table is total"), so the
last alternative is never taken. -/
def classify (sel : Sel) : RowKind :=
  match opcodeTable.find? (OpcodeRow.applies sel) with
  | some row => row.kind
  | none => .refusedPlatform

/-! ### Fields of a selector (30_encoding.md R90) -/

/-- Bits 11:0, the byte offset or the function. -/
def selOffset (sel : Sel) : Offset := sel.extractLsb' 0 12

/-- Bits 13:12, the access size; `00` for bus and platform operations. -/
def selSize (sel : Sel) : BitVec 2 := sel.extractLsb' 12 2

/-- Bits 15:14, the class. -/
def selClass (sel : Sel) : BitVec 2 := sel.extractLsb' 14 2

/-- The direction of an MMIO selector: class `00` reads, class `01` writes. -/
def selDir (sel : Sel) : Dir := if sel.getLsbD 14 then .write else .read

/-- The refused access size of a selector: `01` = 1 byte, `10` = 2 bytes, `11` = 8 bytes. -/
def selSubSize (sel : Sel) : SubSize :=
  if sel.getLsbD 12 then (if sel.getLsbD 13 then .eight else .one) else .two

/-- The word index of a selector in the message-buffer window, `(offset - MB_BASE) / 4` (41_message_buffer_store.md R170). -/
def selIndexAt (c : Config) (sel : Sel) : Fin 512 := Fin.ofNat 512 (((selOffset sel).toNat - c.mbBase) / 4)

/-! ### The decoder -/

/-- The read operation `RD.<name>` of a declared register (30_encoding.md R93 (2)). -/
def Instr.read : Reg → Instr
  | .mcr => .rdMcr
  | .ctrl1 => .rdCtrl1
  | .rxmgmask => .rdRxmgmask
  | .rx14mask => .rdRx14mask
  | .rx15mask => .rdRx15mask
  | .esr1 => .rdEsr1
  | .imask2 => .rdImask2
  | .imask1 => .rdImask1
  | .iflag2 => .rdIflag2
  | .iflag1 => .rdIflag1
  | .ctrl2 => .rdCtrl2
  | .rxfgmask => .rdRxfgmask
  | .fdctrl => .rdFdctrl
  | .fdcbt => .rdFdcbt
  | .fdcrc => .rdFdcrc
  | .erfcr => .rdErfcr
  | .erfier => .rdErfier
  | .erfsr => .rdErfsr

/-- The write operation `WR.<name>` of a declared register (30_encoding.md R93 (3)). -/
def Instr.write : Reg → Word → Instr
  | .mcr, V => .wrMcr V
  | .ctrl1, V => .wrCtrl1 V
  | .rxmgmask, V => .wrRxmgmask V
  | .rx14mask, V => .wrRx14mask V
  | .rx15mask, V => .wrRx15mask V
  | .esr1, V => .wrEsr1 V
  | .imask2, V => .wrImask2 V
  | .imask1, V => .wrImask1 V
  | .iflag2, V => .wrIflag2 V
  | .iflag1, V => .wrIflag1 V
  | .ctrl2, V => .wrCtrl2 V
  | .rxfgmask, V => .wrRxfgmask V
  | .fdctrl, V => .wrFdctrl V
  | .fdcbt, V => .wrFdcbt V
  | .fdcrc, V => .wrFdcrc V
  | .erfcr, V => .wrErfcr V
  | .erfier, V => .wrErfier V
  | .erfsr, V => .wrErfsr V

/-- The operation a row stands for, with its operands taken from the request (30_encoding.md R91). -/
def operationAt (c : Config) (kind : RowKind) (q : Request) : Instr :=
  match kind with
  | .refusedSize => .refusedSize (selDir q.sel) (selSubSize q.sel) (selOffset q.sel)
  | .refusedAlign => .refusedAlign (selDir q.sel) (selOffset q.sel)
  | .rd r => Instr.read r
  | .wr r => Instr.write r q.data
  | .rdMb => .rdMb (selIndexAt c q.sel)
  | .wrMb => .wrMb (selIndexAt c q.sel) q.data
  | .rdUndecl => .rdUndecl (selOffset q.sel)
  | .wrUndecl => .wrUndecl (selOffset q.sel) q.data
  | .busAccept => .busAccept
  | .busRx => .busRx q.frame
  | .refusedBus => .refusedBus (selSize q.sel) (selOffset q.sel)
  | .reset => .reset
  | .refusedPlatform => .refusedPlatform (selSize q.sel) (selOffset q.sel)

/-- The operation a row stands for at the default record. -/
def operation (kind : RowKind) (q : Request) : Instr := operationAt Config.default kind q

/-- The operation a request asks for. Total: a selector that names no operation decodes to one of the `REFUSED`
constructors, by its row's name (30_encoding.md R92, 43_controller_core.md R204). -/
def decode (q : Request) : Instr := operation (classify q.sel) q

/-- The request whose bits are `w`: the selector in bits 15:0, the data operand of an MMIO write in bits 47:16 (model's
layout, log 5); the frame operand, which is a record and no word, is the empty frame. Only the low `nbits` bits of
`w` count. -/
def Request.ofBits (nbits w : Nat) : Request :=
  ⟨BitVec.ofNat 16 (w % 2 ^ nbits), BitVec.ofNat 32 (w % 2 ^ nbits / 2 ^ 16), Frame.empty⟩

/-- What the decoder reads from the instruction whose bits are `w`. -/
def decodeTableWord (nbits w : Nat) : Option Instr := some (decode (Request.ofBits nbits w))

/-! ### The encoder -/

/-- The selector of an MMIO read at a byte offset, `0x0000 | off` (30_encoding.md R94). -/
def readSel (off : Nat) : Sel := BitVec.ofNat 16 off

/-- The selector of an MMIO write at a byte offset, `0x4000 | off` (30_encoding.md R94). -/
def writeSel (off : Nat) : Sel := BitVec.ofNat 16 (0x4000 + off)

/-- The selector whose fields are class, size and offset or function (30_encoding.md R90). -/
def fieldSel (cls size : BitVec 2) (off : Offset) : Sel := cls ++ size ++ off

/-- The class field of a direction (30_encoding.md R90). -/
def Dir.cls : Dir → BitVec 2
  | .read => 0b00#2
  | .write => 0b01#2

/-- The size field of a refused access (30_encoding.md R90). -/
def SubSize.field : SubSize → BitVec 2
  | .one => 0b01#2
  | .two => 0b10#2
  | .eight => 0b11#2

/-- The byte offset of a declared register, `OFF[r]`. -/
def regOffset (r : Reg) : Nat := (Config.default.decl r).offset.toNat

/-- The byte offset of buffer word `i`, `0x080 + 4i` (20_memory.md R70). -/
def wordOffset (i : Fin 512) : Nat := Config.default.mbBase + 4 * i.val

/-- A request with no operand besides its selector. -/
def Request.bare (sel : Sel) : Request := ⟨sel, 0#32, Frame.empty⟩

/-- A request with a data operand. -/
def Request.withData (sel : Sel) (V : Word) : Request := ⟨sel, V, Frame.empty⟩

/-- The request that asks for an operation (30_encoding.md R90, R91, R94). -/
def encode : Instr → Request
  | .rdMcr => .bare (readSel (regOffset .mcr))
  | .wrMcr V => .withData (writeSel (regOffset .mcr)) V
  | .rdCtrl1 => .bare (readSel (regOffset .ctrl1))
  | .wrCtrl1 V => .withData (writeSel (regOffset .ctrl1)) V
  | .rdRxmgmask => .bare (readSel (regOffset .rxmgmask))
  | .wrRxmgmask V => .withData (writeSel (regOffset .rxmgmask)) V
  | .rdRx14mask => .bare (readSel (regOffset .rx14mask))
  | .wrRx14mask V => .withData (writeSel (regOffset .rx14mask)) V
  | .rdRx15mask => .bare (readSel (regOffset .rx15mask))
  | .wrRx15mask V => .withData (writeSel (regOffset .rx15mask)) V
  | .rdEsr1 => .bare (readSel (regOffset .esr1))
  | .wrEsr1 V => .withData (writeSel (regOffset .esr1)) V
  | .rdImask2 => .bare (readSel (regOffset .imask2))
  | .wrImask2 V => .withData (writeSel (regOffset .imask2)) V
  | .rdImask1 => .bare (readSel (regOffset .imask1))
  | .wrImask1 V => .withData (writeSel (regOffset .imask1)) V
  | .rdIflag2 => .bare (readSel (regOffset .iflag2))
  | .wrIflag2 V => .withData (writeSel (regOffset .iflag2)) V
  | .rdIflag1 => .bare (readSel (regOffset .iflag1))
  | .wrIflag1 V => .withData (writeSel (regOffset .iflag1)) V
  | .rdCtrl2 => .bare (readSel (regOffset .ctrl2))
  | .wrCtrl2 V => .withData (writeSel (regOffset .ctrl2)) V
  | .rdRxfgmask => .bare (readSel (regOffset .rxfgmask))
  | .wrRxfgmask V => .withData (writeSel (regOffset .rxfgmask)) V
  | .rdFdctrl => .bare (readSel (regOffset .fdctrl))
  | .wrFdctrl V => .withData (writeSel (regOffset .fdctrl)) V
  | .rdFdcbt => .bare (readSel (regOffset .fdcbt))
  | .wrFdcbt V => .withData (writeSel (regOffset .fdcbt)) V
  | .rdFdcrc => .bare (readSel (regOffset .fdcrc))
  | .wrFdcrc V => .withData (writeSel (regOffset .fdcrc)) V
  | .rdErfcr => .bare (readSel (regOffset .erfcr))
  | .wrErfcr V => .withData (writeSel (regOffset .erfcr)) V
  | .rdErfier => .bare (readSel (regOffset .erfier))
  | .wrErfier V => .withData (writeSel (regOffset .erfier)) V
  | .rdErfsr => .bare (readSel (regOffset .erfsr))
  | .wrErfsr V => .withData (writeSel (regOffset .erfsr)) V
  | .rdMb i => .bare (readSel (wordOffset i))
  | .wrMb i V => .withData (writeSel (wordOffset i)) V
  | .rdUndecl off => .bare (fieldSel 0b00#2 0b00#2 off)
  | .wrUndecl off V => .withData (fieldSel 0b01#2 0b00#2 off) V
  | .busAccept => .bare 0x8000#16
  | .busRx f => ⟨0x8001#16, 0#32, f⟩
  | .reset => .bare 0xC000#16
  | .refusedSize dir size off => .bare (fieldSel dir.cls size.field off)
  | .refusedAlign dir off => .bare (fieldSel dir.cls 0b00#2 off)
  | .refusedBus size func => .bare (fieldSel 0b10#2 size func)
  | .refusedPlatform size func => .bare (fieldSel 0b11#2 size func)

/-- The agent that issues a request, by the class of its selector (30_encoding.md R90; 00_scope.md R10). -/
def Request.agent (q : Request) : Agent :=
  if q.sel.getLsbD 15 then (if q.sel.getLsbD 14 then .platform else .bus) else .host

/-- The agent that issues an operation or a refused selector (00_scope.md R5, R10): the host issues the MMIO accesses, the
bus its query and its delivery, the platform the hard reset. -/
def Instr.issuer : Instr → Agent
  | .rdMcr | .rdCtrl1 | .rdRxmgmask | .rdRx14mask | .rdRx15mask | .rdEsr1 | .rdImask2 | .rdImask1 | .rdIflag2 => .host
  | .rdIflag1 | .rdCtrl2 | .rdRxfgmask | .rdFdctrl | .rdFdcbt | .rdFdcrc | .rdErfcr | .rdErfier | .rdErfsr => .host
  | .wrMcr _ | .wrCtrl1 _ | .wrRxmgmask _ | .wrRx14mask _ | .wrRx15mask _ | .wrEsr1 _ | .wrImask2 _ => .host
  | .wrImask1 _ | .wrIflag2 _ | .wrIflag1 _ | .wrCtrl2 _ | .wrRxfgmask _ | .wrFdctrl _ | .wrFdcbt _ => .host
  | .wrFdcrc _ | .wrErfcr _ | .wrErfier _ | .wrErfsr _ | .rdMb _ | .wrMb _ _ | .rdUndecl _ | .wrUndecl _ _ => .host
  | .refusedSize _ _ _ | .refusedAlign _ _ => .host
  | .busAccept | .busRx _ | .refusedBus _ _ => .bus
  | .reset | .refusedPlatform _ _ => .platform

end Sys2Proof
end

