-- ==== Sys2Proof/Machine/State.lean ====
section
/-! DEFINITION. The state of one controller, as plain data: the declared registers and the message-buffer store
(10_state.md R20), and beside them the model's own fields for the block's interfaces. -/

namespace Sys2Proof.Machine

/-- The declared registers `x[r]` (10_state.md R24), one 32-bit word each. -/
structure Regs where
  /-- `x[MCR]`, module-configuration. -/
  mcr : Word
  /-- `x[CTRL1]`, control-1. -/
  ctrl1 : Word
  /-- `x[RXMGMASK]`, one of the RX masks. -/
  rxmgmask : Word
  /-- `x[RX14MASK]`, one of the RX masks. -/
  rx14mask : Word
  /-- `x[RX15MASK]`, one of the RX masks. -/
  rx15mask : Word
  /-- `x[ESR1]`, error/status. -/
  esr1 : Word
  /-- `x[IMASK2]`, interrupt mask of buffers 32 to 63. -/
  imask2 : Word
  /-- `x[IMASK1]`, interrupt mask of buffers 0 to 31. -/
  imask1 : Word
  /-- `x[IFLAG2]`, interrupt flags of buffers 32 to 63. -/
  iflag2 : Word
  /-- `x[IFLAG1]`, interrupt flags of buffers 0 to 31. -/
  iflag1 : Word
  /-- `x[CTRL2]`, control-2. -/
  ctrl2 : Word
  /-- `x[RXFGMASK]`, one of the RX masks. -/
  rxfgmask : Word
  /-- `x[FDCTRL]`, CAN-FD control, extension word 0. -/
  fdctrl : Word
  /-- `x[FDCBT]`, extension word 1. -/
  fdcbt : Word
  /-- `x[FDCRC]`, extension word 2. -/
  fdcrc : Word
  /-- `x[ERFCR]`, extension word 3. -/
  erfcr : Word
  /-- `x[ERFIER]`, extension word 4. -/
  erfier : Word
  /-- `x[ERFSR]`, extension word 5. -/
  erfsr : Word
  deriving DecidableEq, Repr

/-- The registers after a hard reset: every declared register takes `RESET[r]` (10_state.md R37). -/
def Regs.reset (c : Config) : Regs where
  mcr := (c.decl .mcr).reset
  ctrl1 := (c.decl .ctrl1).reset
  rxmgmask := (c.decl .rxmgmask).reset
  rx14mask := (c.decl .rx14mask).reset
  rx15mask := (c.decl .rx15mask).reset
  esr1 := (c.decl .esr1).reset
  imask2 := (c.decl .imask2).reset
  imask1 := (c.decl .imask1).reset
  iflag2 := (c.decl .iflag2).reset
  iflag1 := (c.decl .iflag1).reset
  ctrl2 := (c.decl .ctrl2).reset
  rxfgmask := (c.decl .rxfgmask).reset
  fdctrl := (c.decl .fdctrl).reset
  fdcbt := (c.decl .fdcbt).reset
  fdcrc := (c.decl .fdcrc).reset
  erfcr := (c.decl .erfcr).reset
  erfier := (c.decl .erfier).reset
  erfsr := (c.decl .erfsr).reset

/-- The message-buffer store `mb[0..511]` (10_state.md R32), as the bytes of its words: byte `j` of word `i`, least
significant first, is the cell at `4i + j` (log 8). Canonical form: addresses strictly rising, no cell equal to what an
unlisted address reads as (`Memory.wf` in Machine/Ops.lean). -/
abbrev Memory := List Host.Cell

/-- What the last completed operation returned to its issuer (00_scope.md R14; 30_encoding.md R91): nothing, one 32-bit
word, or one boolean. -/
inductive Reply where
  | none
  | word (v : Word)
  | bool (b : Bool)
  deriving DecidableEq, Repr

/-- One controller instance. `regs` and `mem` are the whole architectural state (10_state.md R20). The other three are
the model's own, for the interfaces of 00_scope.md R9: `inbox`, the operations the environment has issued and the block
has not yet run, oldest first (log 1); `sent`, the `send` calls made so far with their frames, oldest first, "the block's
transmit output" (41_message_buffer_store.md R174; log 4); `reply`, what the last operation returned (log 3). -/
structure State where
  regs : Regs
  mem : Memory
  inbox : List Request
  sent : List Frame
  reply : Reply
  deriving DecidableEq, Repr

/-- Faults. There are none: "There is no fault outcome" (00_scope.md R14), no operation "faults"
(60_exceptions.md R220), so the type has no constructor and no meaning can raise one. -/
inductive Fault where
  deriving DecidableEq, Repr

/-- Refusals: what the spec gives no meaning ("`refuse(reason)`: the spec gives this operation no meaning; a model must
not invent one", 00_scope.md R12). Each is safe: a claim about a run that meets one cannot be proved (R14). -/
inductive Refusal where
  /-- Raised by an arm of `exec` whose instruction has no meaning yet; safe. No arm of this model raises it. -/
  | notModelled (mnemonic : String)
  /-- `refuse(SubWord)`: an MMIO access of 1, 2 or 8 bytes, raised by `REFUSED.SIZE` (43_controller_core.md R204 (a)); safe. -/
  | subWordSize
  /-- `refuse(SubWord)`: an offset that is no multiple of 4, raised by `REFUSED.ALIGN` (R204 (b)); safe. -/
  | subWordAlign
  /-- A class `10` selector that names no operation, raised by `REFUSED.BUS` (R204 (c)); safe. -/
  | noBusOperation
  /-- A class `11` selector that names no operation, raised by `REFUSED.PLATFORM` (R204 (c)); safe. -/
  | noPlatformOperation
  /-- `onFrameReceived` while `canAccept()` is false, raised by `BUS.RX` (R204 (d), 42_bus_client_receive.md R193); safe
  for a bus that keeps its contract (log 10). -/
  | receiveWhileFull
  deriving DecidableEq, Repr

/-- The machine right after construction (10_state.md R37): every register at its reset value, every buffer word zero
(nothing listed); nothing issued, nothing sent, nothing returned (log 1, 3, 4). -/
def State.reset : State where
  regs := Regs.reset Config.default
  mem := []
  inbox := []
  sent := []
  reply := .none

end Sys2Proof.Machine
end

