-- ==== Sys2Proof/Machine/Operands.lean ====
section
/-! DEFINITION. Operand access and assembly: bits and fields of a word (00_scope.md R11), a register by its name, and the
assembly of frames from buffer words and of buffer words from frames (30_encoding.md section 3). -/

namespace Sys2Proof.Machine

/-! ### Bits and fields (00_scope.md R11, R12) -/

/-- `bit(i)`, the word with only bit `i` set. -/
def bit (i : Nat) : Word := 1#32 <<< i

/-- `x.F <- b` for a one-bit field at position `i`: the bit replaced, the other bits unchanged. -/
def setBit (w : Word) (i : Nat) (b : Bool) : Word := if b then w ||| bit i else w &&& ~~~(bit i)

/-- `v[hi:lo]`, the unsigned integer formed by bits `hi` down to `lo`. -/
def slice (v : Word) (hi lo : Nat) : Nat := v.toNat / 2 ^ lo % 2 ^ (hi + 1 - lo)

/-- Byte `j` of a word, bits `8j + 7` down to `8j` (20_memory.md R61). -/
def wordByte (v : Word) (j : Nat) : Byte := v.extractLsb' (8 * j) 8

/-- The word whose bytes are `b0` (least significant) to `b3` (20_memory.md R61). -/
def packBytes (b0 b1 b2 b3 : Byte) : Word := b3 ++ b2 ++ b1 ++ b0

/-! ### A register by its name -/

/-- `x[r]` (00_scope.md R12). -/
def Regs.get (x : Regs) : Reg → Word
  | .mcr => x.mcr
  | .ctrl1 => x.ctrl1
  | .rxmgmask => x.rxmgmask
  | .rx14mask => x.rx14mask
  | .rx15mask => x.rx15mask
  | .esr1 => x.esr1
  | .imask2 => x.imask2
  | .imask1 => x.imask1
  | .iflag2 => x.iflag2
  | .iflag1 => x.iflag1
  | .ctrl2 => x.ctrl2
  | .rxfgmask => x.rxfgmask
  | .fdctrl => x.fdctrl
  | .fdcbt => x.fdcbt
  | .fdcrc => x.fdcrc
  | .erfcr => x.erfcr
  | .erfier => x.erfier
  | .erfsr => x.erfsr

/-- `x[r] <- v`, a direct store that bypasses mask and policy (00_scope.md R12). -/
def Regs.set (x : Regs) (r : Reg) (v : Word) : Regs :=
  match r with
  | .mcr => { x with mcr := v }
  | .ctrl1 => { x with ctrl1 := v }
  | .rxmgmask => { x with rxmgmask := v }
  | .rx14mask => { x with rx14mask := v }
  | .rx15mask => { x with rx15mask := v }
  | .esr1 => { x with esr1 := v }
  | .imask2 => { x with imask2 := v }
  | .imask1 => { x with imask1 := v }
  | .iflag2 => { x with iflag2 := v }
  | .iflag1 => { x with iflag1 := v }
  | .ctrl2 => { x with ctrl2 := v }
  | .rxfgmask => { x with rxfgmask := v }
  | .fdctrl => { x with fdctrl := v }
  | .fdcbt => { x with fdcbt := v }
  | .fdcrc => { x with fdcrc := v }
  | .erfcr => { x with erfcr := v }
  | .erfier => { x with erfier := v }
  | .erfsr => { x with erfsr := v }

/-! ### Frame assembly on transmit (30_encoding.md R102) -/

/-- The DLC clamp `min(DLC, 8)` (60_exceptions.md R222). -/
def clampDlc (dlc : Nat) : Nat := min dlc 8

/-- Data byte `k` of a buffer whose data words are `d0` and `d1` (20_memory.md R61, 30_encoding.md R100). -/
def dataByte (d0 d1 : Word) (k : Nat) : Byte := wordByte (if k / 4 = 0 then d0 else d1) (k % 4)

/-- The identifier an ID word gives: 29 bits when extended, 11 bits when standard (30_encoding.md R99). -/
def idField (ext : Bool) (idw : Word) : Nat := if ext then slice idw 28 0 else slice idw 10 0

/-- The frame sent for control word `C`, ID word `idw` and data words `d0`, `d1` (30_encoding.md R102). -/
def txFrame (c : Config) (C idw d0 d1 : Word) : Frame where
  id := idField (C.getLsbD c.ideBit) idw
  ext := C.getLsbD c.ideBit
  dlc := clampDlc (slice C c.dlcHi c.dlcLo)
  data := (List.range (clampDlc (slice C c.dlcHi c.dlcLo))).map (dataByte d0 d1)

/-! ### Word assembly on receive (30_encoding.md R103) -/

/-- Byte `k` deposited for frame `f`: its data byte, or 0 at or beyond `dlc` and where the frame has none. -/
def rxByte (f : Frame) (k : Nat) : Byte := if k < clampDlc f.dlc then f.data.getD k 0#8 else 0#8

/-- The control word deposited: IDE and DLC, every other bit 0. -/
def rxCtrl (c : Config) (f : Frame) : Word :=
  (if f.ext then bit c.ideBit else 0#32) ||| (BitVec.ofNat 32 (clampDlc f.dlc) <<< c.dlcLo)

/-- The ID word deposited: the identifier masked to its format's width, the bits above it 0. -/
def rxId (f : Frame) : Word := BitVec.ofNat 32 (if f.ext then f.id % 2 ^ 29 else f.id % 2 ^ 11)

/-- Data word 0, bytes 0 to 3. -/
def rxData0 (f : Frame) : Word := packBytes (rxByte f 0) (rxByte f 1) (rxByte f 2) (rxByte f 3)

/-- Data word 1, bytes 4 to 7. -/
def rxData1 (f : Frame) : Word := packBytes (rxByte f 4) (rxByte f 5) (rxByte f 6) (rxByte f 7)

end Sys2Proof.Machine
end

