-- ==== Sys2Proof/Machine/Flags.lean ====
section
/-! DEFINITION. Status bits, interrupt flags and everything the block derives from them: the combine policies, the
status equations, the mode, the IRQ level, `canAccept`, and the flag a buffer owns. -/

namespace Sys2Proof.Machine

/-! ### Combine policies (00_scope.md R16) -/

/-- The new value of a register from its old value `o`, its mask `M` and the written value `V` (00_scope.md R16). -/
def combine (p : Policy) (M o V : Word) : Word :=
  match p with
  | .overwrite => (o &&& ~~~M) ||| (V &&& M)
  | .w1c => o &&& ~~~(V &&& M)

/-! ### The module-configuration register (10_state.md R25, R27) -/

/-- The freeze condition `HALT & FRZ`. -/
def freezeRequested (c : Config) (m : Word) : Bool := m.getLsbD c.haltBit && m.getLsbD c.frzBit

/-- `MCR` with its three status bits recomputed from `MDIS`, `HALT`, `FRZ` (40_register_bank.md R121). -/
def withStatus (c : Config) (m : Word) : Word :=
  setBit (setBit (setBit m c.lpmackBit (m.getLsbD c.mdisBit)) c.frzackBit (freezeRequested c m))
    c.notrdyBit (m.getLsbD c.mdisBit || freezeRequested c m)

/-- `PRESERVE`, the bits a soft reset keeps: `MDIS`, `NOTRDY`, `SOFTRST`, `FRZACK`, `LPMACK` (10_state.md R25). -/
def preserveMask (c : Config) : Word :=
  bit c.mdisBit ||| bit c.notrdyBit ||| bit c.softrstBit ||| bit c.frzackBit ||| bit c.lpmackBit

/-- `MCR` after the reload of a soft reset, `SOFTRST` self-cleared (40_register_bank.md R122). -/
def reloadedMcr (c : Config) (m : Word) : Word :=
  setBit (((c.decl .mcr).reset &&& ~~~(preserveMask c)) ||| (m &&& preserveMask c)) c.softrstBit false

/-- The three operating modes (43_controller_core.md R205). -/
inductive Mode where
  | disabled
  | freeze
  | normal
  deriving DecidableEq, Repr

/-- The mode, a function of `MCR` (43_controller_core.md R205). -/
def mode (c : Config) (s : State) : Mode :=
  if s.regs.mcr.getLsbD c.mdisBit then .disabled
  else if freezeRequested c s.regs.mcr then .freeze
  else .normal

/-- The freeze-acknowledge bit, which gates transmission (41_message_buffer_store.md R172). -/
def frozen (c : Config) (s : State) : Bool := s.regs.mcr.getLsbD c.frzackBit

/-! ### The interrupt aggregator (60_exceptions.md R224, R225) -/

/-- The IRQ level: OR over the two groups of (mask AND flag). A function of the registers, never stored. -/
def irq (s : State) : Bool :=
  ((s.regs.imask1 &&& s.regs.iflag1) ||| (s.regs.imask2 &&& s.regs.iflag2)) != 0#32

/-- The flag register of group `g` (00_scope.md R17: group `g` is `IMASKg`, `IFLAGg`). -/
def groupFlag (g : Nat) : Reg := if g = 1 then .iflag1 else .iflag2

/-- The hardware-side set of bit `b` in the flag register of group `g`, bypassing write-1-to-clear; a flag already set
stays set (41_message_buffer_store.md R175). -/
def setGroupFlag (g b : Nat) (s : State) : State :=
  { s with regs := s.regs.set (groupFlag g) (s.regs.get (groupFlag g) ||| bit b) }

/-- The transmit-complete flag of buffer `n`: bit `n mod 32` of group `n / 32 + 1`; buffers 64 to 127 own none
(41_message_buffer_store.md R173, R175, R176). -/
def setBufferFlag (n : Nat) (s : State) : State :=
  if n < 32 * flagGroups then setGroupFlag (n / 32 + 1) (n % 32) s else s

/-- Whether the flag of buffer `n` is set: *pending* for source `n` (60_exceptions.md R225); buffers 64 to 127 are no
sources. -/
def bufferFlag (n : Nat) (s : State) : Bool :=
  decide (n < 32 * flagGroups) && (s.regs.get (groupFlag (n / 32 + 1))).getLsbD (n % 32)

/-- Whether source `n` is *enabled*: its bit of `IMASK1` (0 to 31) or `IMASK2` (32 to 63) (60_exceptions.md R225). -/
def bufferMask (n : Nat) (s : State) : Bool :=
  if n < 32 then s.regs.imask1.getLsbD n else decide (n < 32 * flagGroups) && s.regs.imask2.getLsbD (n - 32)

/-! ### Reception (42_bus_client_receive.md R190) -/

/-- `canAccept()`: the receive slot's flag is clear. -/
def canAccept (c : Config) (s : State) : Bool := !(s.regs.get (groupFlag c.rxFlagGroup)).getLsbD c.rxFlagBit

end Sys2Proof.Machine
end

