-- ==== Sys2Proof/Machine/Ops.lean ====
section
/-! DEFINITION. The named operations every meaning is built from: the store by bytes and words, the register write and
read algorithms with their hooks (40_register_bank.md R120, R140), the two resets, the transmit dispatcher, the receive
deposit, and the reply to the issuer. Each takes the configuration record, so that a law can quantify over it
(00_scope.md R7). The block raises no exception and takes no trap (60_exceptions.md R220, R228), so there is no
operation for taking or leaving one. -/

namespace Sys2Proof.Machine

/-! ### The message-buffer store, by bytes -/

/-- What an unlisted byte of the store reads as: buffer memory is "cleared only by reset", to zero (10_state.md R32). -/
def unlistedByte : Byte := 0#8

/-- Bytes in the store: 512 words of 4. -/
def storeBytes : Nat := 16 * mbCount

/-- The canonical form of the store: addresses strictly rising and inside the store, no cell equal to what an unlisted
address reads as. -/
abbrev Memory.wf (m : Memory) : Prop :=
  m.Pairwise (fun x y => x.1 < y.1) ∧ ∀ x ∈ m, x.1 < storeBytes ∧ x.2 ≠ unlistedByte

/-- The byte at address `a`. -/
def Memory.readByte : Memory → Nat → Byte
  | [], _ => unlistedByte
  | (k, b) :: m, a => if k = a then b else Memory.readByte m a

/-- A cell in front of a store, left out when it holds what an unlisted address reads as. -/
def Memory.place (a : Nat) (b : Byte) (m : Memory) : Memory := if b = unlistedByte then m else (a, b) :: m

/-- Store byte `b` at address `a`, keeping the canonical form. -/
def Memory.writeByte : Memory → Nat → Byte → Memory
  | [], a, b => Memory.place a b []
  | (k, c) :: m, a, b =>
    if a < k then Memory.place a b ((k, c) :: m)
    else if a = k then Memory.place a b m
    else (k, c) :: Memory.writeByte m a b

/-- `mb[i]` (00_scope.md R12): word `i` is the bytes at `4i` to `4i + 3`, least significant first (log 8). -/
def Memory.readWord (m : Memory) (i : Nat) : Word :=
  packBytes (m.readByte (4 * i)) (m.readByte (4 * i + 1)) (m.readByte (4 * i + 2)) (m.readByte (4 * i + 3))

/-- `mb[i] <- v` (00_scope.md R12). -/
def Memory.writeWord (m : Memory) (i : Nat) (v : Word) : Memory :=
  (((m.writeByte (4 * i) (wordByte v 0)).writeByte (4 * i + 1) (wordByte v 1)).writeByte (4 * i + 2)
    (wordByte v 2)).writeByte (4 * i + 3) (wordByte v 3)

/-- `mb[i]` of a state. -/
def mb (s : State) (i : Nat) : Word := s.mem.readWord i

/-- `mb[i] <- v` on a state: "stores the raw word at index", all 32 bits, no mask (41_message_buffer_store.md R171). -/
def storeWord (i : Nat) (v : Word) (s : State) : State := { s with mem := s.mem.writeWord i v }

/-! ### Interface outputs -/

/-- The `send` call: exactly one frame handed to the bus, the returned status discarded, nothing else changed
(41_message_buffer_store.md R174; log 11). -/
def send (f : Frame) (s : State) : State := { s with sent := s.sent ++ [f] }

/-- The operation completed and returned a word. -/
def replyWord (v : Word) (s : State) : State := { s with reply := .word v }

/-- The operation completed and returned a boolean. -/
def replyBool (b : Bool) (s : State) : State := { s with reply := .bool b }

/-- The operation completed and returned nothing. -/
def replyNone (s : State) : State := { s with reply := .none }

/-! ### The register bank (40_register_bank.md) -/

/-- `x[r] <- v` on a state. -/
def setReg (r : Reg) (v : Word) (s : State) : State := { s with regs := s.regs.set r v }

/-- `RegRead(r)` (R140): returns `x[r]`, all 32 bits. -/
def regRead (r : Reg) (s : State) : Word := s.regs.get r

/-- `preWriteHook(r, V)` (R143): "clamps to a valid 32-bit pattern", the identity on a 32-bit value. -/
def preWriteHook (_r : Reg) (V : Word) : Word := V

/-- `SoftReset()` (R122): `MCR` reloaded outside the preserved bits and `SOFTRST` cleared, `ESR1`, `IMASK1`, `IMASK2`
reloaded, nothing else touched. -/
def softReset (c : Config) (s : State) : State :=
  { s with regs := { s.regs with
      mcr := reloadedMcr c s.regs.mcr
      esr1 := (c.decl .esr1).reset
      imask1 := (c.decl .imask1).reset
      imask2 := (c.decl .imask2).reset } }

/-- `MCRHook()` (R121): the soft reset if the stored `SOFTRST` is 1, then the three status bits, last. -/
def mcrHook (c : Config) (s : State) : State :=
  let s1 := if s.regs.mcr.getLsbD c.softrstBit then softReset c s else s
  setReg .mcr (withStatus c s1.regs.mcr) s1

/-- The post-write hooks of the bank (10_state.md R24, column `hook`). -/
inductive Hook where
  | mcr
  | irqRecompute
  | absent
  deriving DecidableEq, Repr

/-- The hook of each declared register (R144). -/
def hookOf : Reg → Hook
  | .mcr => .mcr
  | .imask1 | .imask2 | .iflag1 | .iflag2 => .irqRecompute
  | .ctrl1 | .rxmgmask | .rx14mask | .rx15mask | .esr1 | .ctrl2 | .rxfgmask => .absent
  | .fdctrl | .fdcbt | .fdcrc | .erfcr | .erfier | .erfsr => .absent

/-- `postWriteHook(r)` (R144). The IRQ recomputation stores nothing: `irq` is a function of the new state. -/
def postWriteHook (c : Config) (r : Reg) (s : State) : State :=
  match hookOf r with
  | .mcr => mcrHook c s
  | .irqRecompute | .absent => s

/-- The masked store of a register write, before its hook (R120). -/
def maskedStore (c : Config) (r : Reg) (V : Word) (s : State) : State :=
  setReg r (combine (c.decl r).policy (c.decl r).wmask (s.regs.get r) (preWriteHook r V)) s

/-- `RegWrite(r, V)` (R120): pre-write hook, combine policy and mask, store, post-write hook. -/
def regWrite (c : Config) (r : Reg) (V : Word) (s : State) : State := postWriteHook c r (maskedStore c r V s)

/-- The hard reset (43_controller_core.md R207): every register takes `RESET[r]`, every buffer word is zero. The
environment's issued operations and the history of `send` calls are no state of the block and stay (log 4). -/
def hardReset (c : Config) (s : State) : State := { s with regs := Regs.reset c, mem := [] }

/-! ### The transmit dispatcher (41_message_buffer_store.md R171 to R173) -/

/-- `TxTrigger(i, V)` (R172): a control word, not frozen, the "transmit data" code. -/
def txTrigger (c : Config) (i : Nat) (V : Word) (s : State) : Bool :=
  i % 4 == 0 && !frozen c s && slice V c.codeHi c.codeLo == c.codeTxData

/-- The frame buffer `n` sends for control word `C`, from its other words as they stand (R173; 20_memory.md R76). -/
def bufferFrame (c : Config) (n : Nat) (C : Word) (s : State) : Frame :=
  txFrame c C (mb s (4 * n + 1)) (mb s (4 * n + 2)) (mb s (4 * n + 3))

/-- `TxDispatch(n, C)` (R173): one `send`, then the buffer's flag. -/
def txDispatch (c : Config) (n : Nat) (C : Word) (s : State) : State :=
  setBufferFlag n (send (bufferFrame c n C s) s)

/-- `WR.MB(i, V)` (R171): the store first and always, then the dispatcher if triggered. -/
def mbWrite (c : Config) (i : Nat) (V : Word) (s : State) : State :=
  let s1 := storeWord i V s
  if txTrigger c i V s1 then txDispatch c (i / 4) V s1 else s1

/-! ### The receive deposit (42_bus_client_receive.md R192) -/

/-- The four stores of a reception and the slot's flag; the stores do not pass through `WR.MB` (R192). -/
def deliver (c : Config) (f : Frame) (s : State) : State :=
  setGroupFlag c.rxFlagGroup c.rxFlagBit
    (storeWord (4 * c.rxSlot + 3) (rxData1 f)
      (storeWord (4 * c.rxSlot + 2) (rxData0 f)
        (storeWord (4 * c.rxSlot + 1) (rxId f)
          (storeWord (4 * c.rxSlot) (rxCtrl c f) s))))

end Sys2Proof.Machine
end

