-- ==== Sys2Proof/Machine/BusClient.lean ====
section
/-! DEFINITION. The meanings of the bus-side operations (42_bus_client_receive.md), and the bus's own step of test and
delivery. -/

namespace Sys2Proof.Machine

/-- `BUS.ACCEPT`: returns `canAccept()`, changes nothing (R190). -/
def execBusAccept (s : State) : Host.Outcome State Fault Refusal :=
  .next (replyBool (canAccept Config.default s) s)

/-- `onFrameReceived(f)`: the deposit of R192 when `canAccept()` holds; while the receive flag is set it "is not an
operation of the block" and is refused (R193; log 10). -/
def receive (c : Config) (f : Frame) (s : State) : Host.Outcome State Fault Refusal :=
  if canAccept c s then .next (replyNone (deliver c f s)) else .refused .receiveWhileFull

/-- `BUS.RX`: the delivery (R192, R193). -/
def execBusRx (f : Frame) (s : State) : Host.Outcome State Fault Refusal := receive Config.default f s

/-- `REFUSED.BUS`: a class `10` selector that names no operation (43_controller_core.md R204 (c)). -/
def execRefusedBus (_size : BitVec 2) (_func : Offset) (_s : State) : Host.Outcome State Fault Refusal :=
  .refused .noBusOperation

/-- A frame arriving at the controller, as the bus layer handles it in one atomic step: "test the flag, and deliver if
clear" (R195); otherwise the bus drops the frame and the block sees nothing (R191, 60_exceptions.md R223). -/
def busOffer (f : Frame) (s : State) : Host.Outcome State Fault Refusal :=
  if canAccept Config.default s then execBusRx f s else .next s

end Sys2Proof.Machine
end

