-- ==== Sys2Proof/Machine/Controller.lean ====
section
/-! DEFINITION. The controller core (43_controller_core.md): the meanings of the undeclared offsets, the hard reset and the
refused selectors; the address-range dispatcher as the host sees it; construction. -/

namespace Sys2Proof.Machine

/-! ### Meanings -/

/-- `RD.UNDECL`: returns `0x00000000` (R202). -/
def execRdUndecl (_off : Offset) (s : State) : Host.Outcome State Fault Refusal := .next (replyWord 0#32 s)

/-- `WR.UNDECL`: nothing; the state of the block is unchanged (R203). -/
def execWrUndecl (_off : Offset) (_V : Word) (s : State) : Host.Outcome State Fault Refusal := .next (replyNone s)

/-- `RESET`: the hard reset (R207). -/
def execReset (s : State) : Host.Outcome State Fault Refusal := .next (replyNone (hardReset Config.default s))

/-- `REFUSED.SIZE`: an MMIO access of 1, 2 or 8 bytes is not an operation (R204 (a), 20_memory.md R63). -/
def execRefusedSize (_dir : Dir) (_size : SubSize) (_off : Offset) (_s : State) : Host.Outcome State Fault Refusal :=
  .refused .subWordSize

/-- `REFUSED.ALIGN`: an MMIO access at an offset that is no multiple of 4 is not an operation (R204 (b), R63). -/
def execRefusedAlign (_dir : Dir) (_off : Offset) (_s : State) : Host.Outcome State Fault Refusal :=
  .refused .subWordAlign

/-- `REFUSED.PLATFORM`: a class `11` selector that names no operation (R204 (c)). -/
def execRefusedPlatform (_size : BitVec 2) (_func : Offset) (_s : State) : Host.Outcome State Fault Refusal :=
  .refused .noPlatformOperation

/-! ### The dispatcher (20_memory.md R69; 43_controller_core.md R200, R201) -/

/-- What an admitted offset designates. -/
inductive Region where
  | reg (r : Reg)
  | buffer (i : Fin 512)
  | undeclared
  deriving DecidableEq, Repr

/-- The declared register at an offset, if its row of 10_state.md R24 exists; a position that matches no row is treated
as undeclared (20_memory.md R69). -/
def registerAt (c : Config) (off : Offset) : Region :=
  match Reg.all.find? (fun r => (c.decl r).offset == off) with
  | some r => .reg r
  | none => .undeclared

/-- The decode function of the address-range dispatcher (20_memory.md R69). -/
def region (c : Config) (off : Offset) : Region :=
  if off.toNat ≤ 0x7C then registerAt c off
  else if c.mbBase ≤ off.toNat ∧ off.toNat < c.mbBase + 16 * mbCount then
    .buffer (Fin.ofNat 512 ((off.toNat - c.mbBase) / 4))
  else if extBase ≤ off.toNat ∧ off.toNat ≤ extBase + 4 * extCount - 4 then registerAt c off
  else .undeclared

/-- `MemRead(off, 4)` (R200): the value the host sees; no state is changed. -/
def memRead (c : Config) (off : Offset) (s : State) : Word :=
  match region c off with
  | .reg r => regRead r s
  | .buffer i => mb s i.val
  | .undeclared => 0#32

/-- `MemWrite(off, 4, V)` (R201). -/
def memWrite (c : Config) (off : Offset) (V : Word) (s : State) : State :=
  match region c off with
  | .reg r => regWrite c r V s
  | .buffer i => mbWrite c i.val V s
  | .undeclared => s

/-- The operation map in prose (30_encoding.md R93), as a function of the selector's fields and the configuration: the
row kind the opcode table must give at the default record. -/
def operationMap (c : Config) (sel : Sel) : RowKind :=
  if selClass sel = 0b10#2 then
    if sel = 0x8000#16 then .busAccept else if sel = 0x8001#16 then .busRx else .refusedBus
  else if selClass sel = 0b11#2 then
    if sel = 0xC000#16 then .reset else .refusedPlatform
  else if selSize sel ≠ 0b00#2 then .refusedSize
  else if (selOffset sel).toNat % 4 ≠ 0 then .refusedAlign
  else match selDir sel, region c (selOffset sel) with
    | .read, .reg r => .rd r
    | .write, .reg r => .wr r
    | .read, .buffer _ => .rdMb
    | .write, .buffer _ => .wrMb
    | .read, .undeclared => .rdUndecl
    | .write, .undeclared => .wrUndecl

/-! ### Construction (43_controller_core.md R207, R210) -/

/-- The result of `attach(controller)` at assembly time (R210; 60_exceptions.md R221). -/
inductive Attachment where
  | attached
  | failed
  deriving DecidableEq, Repr

/-- Construction and attachment by the platform, before the first operation: a ConfigurationError is "fatal, reported to
the assembling collaborator", and then the controller does not exist (R210; log 13). -/
def construct : Attachment → Option State
  | .attached => some State.reset
  | .failed => none

end Sys2Proof.Machine
end

