-- ==== Sys2Proof/Machine/MessageBuffers.lean ====
section
/-! DEFINITION. The meanings of the message-buffer operations (41_message_buffer_store.md). -/

namespace Sys2Proof.Machine

/-- `RD.MB`: returns `mb[i]`, the raw stored word, with no side effect (R170). -/
def execRdMb (i : Fin 512) (s : State) : Host.Outcome State Fault Refusal := .next (replyWord (mb s i.val) s)

/-- `WR.MB`: stores `V` in word `i`, then transmits if `TxTrigger(i, V)` holds (R171 to R173). -/
def execWrMb (i : Fin 512) (V : Word) (s : State) : Host.Outcome State Fault Refusal :=
  .next (replyNone (mbWrite Config.default i.val V s))

end Sys2Proof.Machine
end

