-- ==== Sys2Proof/Machine/RegisterBank.lean ====
section
/-! DEFINITION. The meanings of the register-bank operations (40_register_bank.md): one definition per instruction over
`registerRead` and `registerWrite`. -/

namespace Sys2Proof.Machine

/-- A read of a declared register as an operation: it completes and returns `x[r]` (R140). -/
def registerRead (r : Reg) (s : State) : Host.Outcome State Fault Refusal := .next (replyWord (regRead r s) s)

/-- A write of a declared register as an operation: it completes, whatever the word (R120). -/
def registerWrite (c : Config) (r : Reg) (V : Word) (s : State) : Host.Outcome State Fault Refusal :=
  .next (replyNone (regWrite c r V s))

/-- `RD.MCR`: returns `x[MCR]` (R121, R140). -/
def execRdMcr (s : State) : Host.Outcome State Fault Refusal := registerRead .mcr s

/-- `WR.MCR`: `RegWrite(MCR, V)`, masked store, then `MCRHook()` (R121, R120). -/
def execWrMcr (V : Word) (s : State) : Host.Outcome State Fault Refusal :=
  registerWrite Config.default .mcr V s

/-- `RD.CTRL1`: returns `x[CTRL1]` (R123, R140). -/
def execRdCtrl1 (s : State) : Host.Outcome State Fault Refusal := registerRead .ctrl1 s

/-- `WR.CTRL1`: `RegWrite(CTRL1, V)`, overwrite (R123, R120). -/
def execWrCtrl1 (V : Word) (s : State) : Host.Outcome State Fault Refusal :=
  registerWrite Config.default .ctrl1 V s

/-- `RD.RXMGMASK`: returns `x[RXMGMASK]` (R124, R140). -/
def execRdRxmgmask (s : State) : Host.Outcome State Fault Refusal := registerRead .rxmgmask s

/-- `WR.RXMGMASK`: `RegWrite(RXMGMASK, V)`, overwrite (R124, R120). -/
def execWrRxmgmask (V : Word) (s : State) : Host.Outcome State Fault Refusal :=
  registerWrite Config.default .rxmgmask V s

/-- `RD.RX14MASK`: returns `x[RX14MASK]` (R125, R140). -/
def execRdRx14mask (s : State) : Host.Outcome State Fault Refusal := registerRead .rx14mask s

/-- `WR.RX14MASK`: `RegWrite(RX14MASK, V)`, overwrite (R125, R120). -/
def execWrRx14mask (V : Word) (s : State) : Host.Outcome State Fault Refusal :=
  registerWrite Config.default .rx14mask V s

/-- `RD.RX15MASK`: returns `x[RX15MASK]` (R126, R140). -/
def execRdRx15mask (s : State) : Host.Outcome State Fault Refusal := registerRead .rx15mask s

/-- `WR.RX15MASK`: `RegWrite(RX15MASK, V)`, overwrite (R126, R120). -/
def execWrRx15mask (V : Word) (s : State) : Host.Outcome State Fault Refusal :=
  registerWrite Config.default .rx15mask V s

/-- `RD.ESR1`: returns `x[ESR1]` (R127, R140). -/
def execRdEsr1 (s : State) : Host.Outcome State Fault Refusal := registerRead .esr1 s

/-- `WR.ESR1`: `RegWrite(ESR1, V)`, write-1-to-clear (R127, R120). -/
def execWrEsr1 (V : Word) (s : State) : Host.Outcome State Fault Refusal :=
  registerWrite Config.default .esr1 V s

/-- `RD.IMASK2`: returns `x[IMASK2]` (R128, R140). -/
def execRdImask2 (s : State) : Host.Outcome State Fault Refusal := registerRead .imask2 s

/-- `WR.IMASK2`: `RegWrite(IMASK2, V)`, overwrite (R128, R120). -/
def execWrImask2 (V : Word) (s : State) : Host.Outcome State Fault Refusal :=
  registerWrite Config.default .imask2 V s

/-- `RD.IMASK1`: returns `x[IMASK1]` (R129, R140). -/
def execRdImask1 (s : State) : Host.Outcome State Fault Refusal := registerRead .imask1 s

/-- `WR.IMASK1`: `RegWrite(IMASK1, V)`, overwrite (R129, R120). -/
def execWrImask1 (V : Word) (s : State) : Host.Outcome State Fault Refusal :=
  registerWrite Config.default .imask1 V s

/-- `RD.IFLAG2`: returns `x[IFLAG2]` (R130, R140). -/
def execRdIflag2 (s : State) : Host.Outcome State Fault Refusal := registerRead .iflag2 s

/-- `WR.IFLAG2`: `RegWrite(IFLAG2, V)`, write-1-to-clear (R130, R120). -/
def execWrIflag2 (V : Word) (s : State) : Host.Outcome State Fault Refusal :=
  registerWrite Config.default .iflag2 V s

/-- `RD.IFLAG1`: returns `x[IFLAG1]` (R131, R140). -/
def execRdIflag1 (s : State) : Host.Outcome State Fault Refusal := registerRead .iflag1 s

/-- `WR.IFLAG1`: `RegWrite(IFLAG1, V)`, write-1-to-clear (R131, R120). -/
def execWrIflag1 (V : Word) (s : State) : Host.Outcome State Fault Refusal :=
  registerWrite Config.default .iflag1 V s

/-- `RD.CTRL2`: returns `x[CTRL2]` (R132, R140). -/
def execRdCtrl2 (s : State) : Host.Outcome State Fault Refusal := registerRead .ctrl2 s

/-- `WR.CTRL2`: `RegWrite(CTRL2, V)`, overwrite (R132, R120). -/
def execWrCtrl2 (V : Word) (s : State) : Host.Outcome State Fault Refusal :=
  registerWrite Config.default .ctrl2 V s

/-- `RD.RXFGMASK`: returns `x[RXFGMASK]` (R133, R140). -/
def execRdRxfgmask (s : State) : Host.Outcome State Fault Refusal := registerRead .rxfgmask s

/-- `WR.RXFGMASK`: `RegWrite(RXFGMASK, V)`, overwrite (R133, R120). -/
def execWrRxfgmask (V : Word) (s : State) : Host.Outcome State Fault Refusal :=
  registerWrite Config.default .rxfgmask V s

/-- `RD.FDCTRL`: returns `x[FDCTRL]` (R134, R140). -/
def execRdFdctrl (s : State) : Host.Outcome State Fault Refusal := registerRead .fdctrl s

/-- `WR.FDCTRL`: `RegWrite(FDCTRL, V)`, overwrite (R134, R120). -/
def execWrFdctrl (V : Word) (s : State) : Host.Outcome State Fault Refusal :=
  registerWrite Config.default .fdctrl V s

/-- `RD.FDCBT`: returns `x[FDCBT]` (R135, R140). -/
def execRdFdcbt (s : State) : Host.Outcome State Fault Refusal := registerRead .fdcbt s

/-- `WR.FDCBT`: `RegWrite(FDCBT, V)`, overwrite (R135, R120). -/
def execWrFdcbt (V : Word) (s : State) : Host.Outcome State Fault Refusal :=
  registerWrite Config.default .fdcbt V s

/-- `RD.FDCRC`: returns `x[FDCRC]` (R136, R140). -/
def execRdFdcrc (s : State) : Host.Outcome State Fault Refusal := registerRead .fdcrc s

/-- `WR.FDCRC`: `RegWrite(FDCRC, V)`, overwrite (R136, R120). -/
def execWrFdcrc (V : Word) (s : State) : Host.Outcome State Fault Refusal :=
  registerWrite Config.default .fdcrc V s

/-- `RD.ERFCR`: returns `x[ERFCR]` (R137, R140). -/
def execRdErfcr (s : State) : Host.Outcome State Fault Refusal := registerRead .erfcr s

/-- `WR.ERFCR`: `RegWrite(ERFCR, V)`, overwrite (R137, R120). -/
def execWrErfcr (V : Word) (s : State) : Host.Outcome State Fault Refusal :=
  registerWrite Config.default .erfcr V s

/-- `RD.ERFIER`: returns `x[ERFIER]` (R138, R140). -/
def execRdErfier (s : State) : Host.Outcome State Fault Refusal := registerRead .erfier s

/-- `WR.ERFIER`: `RegWrite(ERFIER, V)`, overwrite (R138, R120). -/
def execWrErfier (V : Word) (s : State) : Host.Outcome State Fault Refusal :=
  registerWrite Config.default .erfier V s

/-- `RD.ERFSR`: returns `x[ERFSR]` (R139, R140). -/
def execRdErfsr (s : State) : Host.Outcome State Fault Refusal := registerRead .erfsr s

/-- `WR.ERFSR`: `RegWrite(ERFSR, V)`, overwrite (R139, R120). -/
def execWrErfsr (V : Word) (s : State) : Host.Outcome State Fault Refusal :=
  registerWrite Config.default .erfsr V s

end Sys2Proof.Machine
end

