-- ==== Sys2Proof/Machine/Dispatch.lean ====
section
/-! DEFINITION. `exec`: one arm per constructor of `Instr`, each one call of that instruction's meaning. -/

namespace Sys2Proof.Machine

def exec (i : Instr) (s : State) : Host.Outcome State Fault Refusal :=
  match i with
  | .rdMcr => Sys2Proof.Machine.execRdMcr s
  | .wrMcr V => Sys2Proof.Machine.execWrMcr V s
  | .rdCtrl1 => Sys2Proof.Machine.execRdCtrl1 s
  | .wrCtrl1 V => Sys2Proof.Machine.execWrCtrl1 V s
  | .rdRxmgmask => Sys2Proof.Machine.execRdRxmgmask s
  | .wrRxmgmask V => Sys2Proof.Machine.execWrRxmgmask V s
  | .rdRx14mask => Sys2Proof.Machine.execRdRx14mask s
  | .wrRx14mask V => Sys2Proof.Machine.execWrRx14mask V s
  | .rdRx15mask => Sys2Proof.Machine.execRdRx15mask s
  | .wrRx15mask V => Sys2Proof.Machine.execWrRx15mask V s
  | .rdEsr1 => Sys2Proof.Machine.execRdEsr1 s
  | .wrEsr1 V => Sys2Proof.Machine.execWrEsr1 V s
  | .rdImask2 => Sys2Proof.Machine.execRdImask2 s
  | .wrImask2 V => Sys2Proof.Machine.execWrImask2 V s
  | .rdImask1 => Sys2Proof.Machine.execRdImask1 s
  | .wrImask1 V => Sys2Proof.Machine.execWrImask1 V s
  | .rdIflag2 => Sys2Proof.Machine.execRdIflag2 s
  | .wrIflag2 V => Sys2Proof.Machine.execWrIflag2 V s
  | .rdIflag1 => Sys2Proof.Machine.execRdIflag1 s
  | .wrIflag1 V => Sys2Proof.Machine.execWrIflag1 V s
  | .rdCtrl2 => Sys2Proof.Machine.execRdCtrl2 s
  | .wrCtrl2 V => Sys2Proof.Machine.execWrCtrl2 V s
  | .rdRxfgmask => Sys2Proof.Machine.execRdRxfgmask s
  | .wrRxfgmask V => Sys2Proof.Machine.execWrRxfgmask V s
  | .rdFdctrl => Sys2Proof.Machine.execRdFdctrl s
  | .wrFdctrl V => Sys2Proof.Machine.execWrFdctrl V s
  | .rdFdcbt => Sys2Proof.Machine.execRdFdcbt s
  | .wrFdcbt V => Sys2Proof.Machine.execWrFdcbt V s
  | .rdFdcrc => Sys2Proof.Machine.execRdFdcrc s
  | .wrFdcrc V => Sys2Proof.Machine.execWrFdcrc V s
  | .rdErfcr => Sys2Proof.Machine.execRdErfcr s
  | .wrErfcr V => Sys2Proof.Machine.execWrErfcr V s
  | .rdErfier => Sys2Proof.Machine.execRdErfier s
  | .wrErfier V => Sys2Proof.Machine.execWrErfier V s
  | .rdErfsr => Sys2Proof.Machine.execRdErfsr s
  | .wrErfsr V => Sys2Proof.Machine.execWrErfsr V s
  | .rdMb w => Sys2Proof.Machine.execRdMb w s
  | .wrMb w V => Sys2Proof.Machine.execWrMb w V s
  | .rdUndecl off => Sys2Proof.Machine.execRdUndecl off s
  | .wrUndecl off V => Sys2Proof.Machine.execWrUndecl off V s
  | .busAccept => Sys2Proof.Machine.execBusAccept s
  | .busRx f => Sys2Proof.Machine.execBusRx f s
  | .reset => Sys2Proof.Machine.execReset s
  | .refusedSize dir size off => Sys2Proof.Machine.execRefusedSize dir size off s
  | .refusedAlign dir off => Sys2Proof.Machine.execRefusedAlign dir off s
  | .refusedBus size func => Sys2Proof.Machine.execRefusedBus size func s
  | .refusedPlatform size func => Sys2Proof.Machine.execRefusedPlatform size func s

end Sys2Proof.Machine
end

