-- ==== Sys2Proof/Machine/Step.lean ====
section
/-! DEFINITION. One step of the machine: the oldest operation the environment has issued is taken from `inbox`, decoded
and run to completion (00_scope.md R10, R14; 10_state.md R23). -/

namespace Sys2Proof.Machine

/-- One operation, atomically (20_memory.md R64). With nothing issued the block does nothing: it has no activity of its
own (60_exceptions.md R231, R235; log 2). -/
def step (s : State) : Host.Outcome State Fault Refusal :=
  match s.inbox with
  | [] => .next s
  | q :: rest => exec (decode q) { s with inbox := rest }

/-- `s` with the request whose bits are `w` issued next, before everything else in `inbox` (log 1). -/
def State.withFetchWord (s : State) (nbits w : Nat) : State :=
  { s with inbox := Request.ofBits nbits w :: s.inbox }

end Sys2Proof.Machine
end

