-- ==== Sys2Proof/Machine/Assembly.lean ====
section
/-! DEFINITION. The parameters that are not state, as arguments of the step: the configuration record, the attached bus and the
base address of the region (10_state.md R35). `exec`, `decode` and `step` are this machine at the default record. -/

namespace Sys2Proof.Machine

/-! ### Operations at any configuration record -/

/-- The decoder at a record: the operation map of 30_encoding.md R93, with the record's offsets and window. -/
def decodeAt (c : Config) (q : Request) : Instr := operationAt c (operationMap c q.sel) q

/-- The meaning of each operation at a record, over the shared operations the meanings of `exec` are built from. -/
def execAt (c : Config) (i : Instr) (s : State) : Host.Outcome State Fault Refusal :=
  match i with
  | .rdMcr => registerRead .mcr s
  | .wrMcr V => registerWrite c .mcr V s
  | .rdCtrl1 => registerRead .ctrl1 s
  | .wrCtrl1 V => registerWrite c .ctrl1 V s
  | .rdRxmgmask => registerRead .rxmgmask s
  | .wrRxmgmask V => registerWrite c .rxmgmask V s
  | .rdRx14mask => registerRead .rx14mask s
  | .wrRx14mask V => registerWrite c .rx14mask V s
  | .rdRx15mask => registerRead .rx15mask s
  | .wrRx15mask V => registerWrite c .rx15mask V s
  | .rdEsr1 => registerRead .esr1 s
  | .wrEsr1 V => registerWrite c .esr1 V s
  | .rdImask2 => registerRead .imask2 s
  | .wrImask2 V => registerWrite c .imask2 V s
  | .rdImask1 => registerRead .imask1 s
  | .wrImask1 V => registerWrite c .imask1 V s
  | .rdIflag2 => registerRead .iflag2 s
  | .wrIflag2 V => registerWrite c .iflag2 V s
  | .rdIflag1 => registerRead .iflag1 s
  | .wrIflag1 V => registerWrite c .iflag1 V s
  | .rdCtrl2 => registerRead .ctrl2 s
  | .wrCtrl2 V => registerWrite c .ctrl2 V s
  | .rdRxfgmask => registerRead .rxfgmask s
  | .wrRxfgmask V => registerWrite c .rxfgmask V s
  | .rdFdctrl => registerRead .fdctrl s
  | .wrFdctrl V => registerWrite c .fdctrl V s
  | .rdFdcbt => registerRead .fdcbt s
  | .wrFdcbt V => registerWrite c .fdcbt V s
  | .rdFdcrc => registerRead .fdcrc s
  | .wrFdcrc V => registerWrite c .fdcrc V s
  | .rdErfcr => registerRead .erfcr s
  | .wrErfcr V => registerWrite c .erfcr V s
  | .rdErfier => registerRead .erfier s
  | .wrErfier V => registerWrite c .erfier V s
  | .rdErfsr => registerRead .erfsr s
  | .wrErfsr V => registerWrite c .erfsr V s
  | .rdMb i => .next (replyWord (mb s i.val) s)
  | .wrMb i V => .next (replyNone (mbWrite c i.val V s))
  | .rdUndecl off => execRdUndecl off s
  | .wrUndecl off V => execWrUndecl off V s
  | .busAccept => .next (replyBool (canAccept c s) s)
  | .busRx f => receive c f s
  | .reset => .next (replyNone (hardReset c s))
  | .refusedSize dir size off => execRefusedSize dir size off s
  | .refusedAlign dir off => execRefusedAlign dir off s
  | .refusedBus size func => execRefusedBus size func s
  | .refusedPlatform size func => execRefusedPlatform size func s

/-! ### The assembled controller -/

/-- What the platform fixes when it assembles a controller and no operation changes (10_state.md R35; 20_memory.md R71): the
configuration record, the bus `attach` attached it to, by a number, and the address at which the region sits in the
platform's map. -/
structure Assembly where
  config : Config
  bus : Nat
  base : Nat

/-- What the outside can do to a platform that holds the controller (00_scope.md R9, R10): the host accesses a platform
address, with the size field of 30_encoding.md R90; a bus queries the controller attached to it or delivers a frame; the
platform resets the controller. -/
inductive Event where
  | host (dir : Dir) (size : BitVec 2) (addr : Nat) (V : Word)
  | query (bus : Nat)
  | deliver (bus : Nat) (f : Frame)
  | hardReset
  deriving DecidableEq, Repr

/-- The byte offset of a platform address inside the region: offsets `0` to `REGION_SIZE - 1` relative to the base
(10_state.md R33). -/
def Assembly.offsetOf (a : Assembly) (addr : Nat) : Option Offset :=
  if a.base ≤ addr ∧ addr < a.base + a.config.regionSize then some (BitVec.ofNat 12 (addr - a.base)) else none

/-- The request an event presents to the controller, if any: an address outside its region is no access to it
(92_eei_decisions.md D8), and a bus it is not attached to does not call it (00_scope.md R9 (3), (4); log 21). -/
def Assembly.request (a : Assembly) : Event → Option Request
  | .host dir size addr V => (a.offsetOf addr).map fun off => ⟨fieldSel dir.cls size off, V, Frame.empty⟩
  | .query bus => if bus = a.bus then some (.bare 0x8000#16) else none
  | .deliver bus f => if bus = a.bus then some ⟨0x8001#16, 0#32, f⟩ else none
  | .hardReset => some (.bare 0xC000#16)

/-- The step with its parameters as arguments (10_state.md R35): an event that presents a request runs it to completion; any
other leaves the controller as it is. -/
def Assembly.step (a : Assembly) (e : Event) (s : State) : Host.Outcome State Fault Refusal :=
  match a.request e with
  | none => .next s
  | some q => execAt a.config (decodeAt a.config q) s

/-- The `send` calls made so far, each with the bus it was made on: the one attached (41_message_buffer_store.md R174). -/
def Assembly.transmitted (a : Assembly) (s : State) : List (Nat × Frame) := s.sent.map fun f => (a.bus, f)

/-- The state after construction at the assembly's record (10_state.md R37). -/
def Assembly.initial (a : Assembly) : State := { State.reset with regs := Regs.reset a.config }

end Sys2Proof.Machine
end

