-- ==== Sys2Proof/Machine/Pseudo.lean ====
section
/-! DEFINITION. The pseudo-operations of 30_encoding.md R108, their expansions into operations, and the running of a sequence. -/

namespace Sys2Proof.Machine

/-- The write-1-to-clear registers, which `W1C` may name (30_encoding.md R108). -/
inductive W1cReg where
  | iflag1
  | iflag2
  | esr1
  deriving DecidableEq, Repr

/-- The pseudo-operations (30_encoding.md R108). -/
inductive Pseudo where
  | w1c (r : W1cReg) (mask : Word)
  | enable
  | disable
  | freeze
  | softReset
  | softResetDisabled
  | tx (n : Fin 128) (ctrl id d0 d1 : Word)
  | ack (n : Fin 64)
  deriving DecidableEq, Repr

/-- Word `w` of buffer `n` as a word index, `4n + w` (20_memory.md R70). -/
def bufferWord (n : Fin 128) (w : Fin 4) : Fin 512 := ⟨4 * n.val + w.val, by omega⟩

/-- The expansion of each pseudo-operation, in order (30_encoding.md R108); `TX` writes the control word last
(70_reset_and_hazards.md R256). -/
def Pseudo.expand : Pseudo → List Instr
  | .w1c .iflag1 mask => [.wrIflag1 mask]
  | .w1c .iflag2 mask => [.wrIflag2 mask]
  | .w1c .esr1 mask => [.wrEsr1 mask]
  | .enable => [.wrMcr 0x00000000#32]
  | .disable => [.wrMcr 0x80000000#32]
  | .freeze => [.wrMcr 0x50000000#32]
  | .softReset => [.wrMcr 0x02000000#32]
  | .softResetDisabled => [.wrMcr 0x82000000#32]
  | .tx n ctrl id d0 d1 =>
    [.wrMb (bufferWord n 1) id, .wrMb (bufferWord n 2) d0, .wrMb (bufferWord n 3) d1, .wrMb (bufferWord n 0) ctrl]
  | .ack n => if n.val < 32 then [.wrIflag1 (bit n.val)] else [.wrIflag2 (bit (n.val - 32))]

/-- The operations of a finite sequence, each run to completion before the next; "a refusal is kept for the whole run"
(00_scope.md R5; 43_controller_core.md R204). -/
def execAll : List Instr → State → Host.Outcome State Fault Refusal
  | [], s => .next s
  | i :: rest, s =>
    match exec i s with
    | .next t => execAll rest t
    | .fault r => .fault r
    | .refused r => .refused r

end Sys2Proof.Machine
end

