-- ==== Sys2Proof/Safety.lean ====
section
/-! DEFINITION. What holds of every reachable state, in the terms the statements use. -/

namespace Sys2Proof.Machine

/-- The status equations of 10_state.md R27 on an `MCR` word: `LPMACK = MDIS`, `FRZACK = HALT & FRZ`,
`NOTRDY = MDIS | (HALT & FRZ)`, `SOFTRST = 0`. -/
structure StatusEquations (c : Config) (m : Word) : Prop where
  lpmack : m.getLsbD c.lpmackBit = m.getLsbD c.mdisBit
  frzack : m.getLsbD c.frzackBit = (m.getLsbD c.haltBit && m.getLsbD c.frzBit)
  notrdy : m.getLsbD c.notrdyBit = (m.getLsbD c.mdisBit || (m.getLsbD c.haltBit && m.getLsbD c.frzBit))
  softrst : m.getLsbD c.softrstBit = false

/-- The invariant of the machine: the status equations (R27), `ESR1` zero (10_state.md R28), the store in canonical form,
and every frame ever sent legal (00_scope.md R13). -/
structure Inv (s : State) : Prop where
  status : StatusEquations Config.default s.regs.mcr
  esr1 : s.regs.esr1 = 0#32
  store : s.mem.wf
  sent : ∀ f ∈ s.sent, f.Legal

/-- The invariant at any record: the status equations (R27), the store in canonical form, every frame ever sent legal. -/
structure InvAt (c : Config) (s : State) : Prop where
  status : StatusEquations c s.regs.mcr
  store : s.mem.wf
  sent : ∀ f ∈ s.sent, f.Legal

/-- The state with another `MCR` word in place of its own. -/
def withMcr (m : Word) (s : State) : State := { s with regs := { s.regs with mcr := m } }

/-- Two states that differ at most in the twelve storage-only registers (10_state.md R21). -/
def agreeOffStorage (s t : State) : Prop :=
  (∀ r : Reg, r.isStorage = false → t.regs.get r = s.regs.get r) ∧ t.mem = s.mem ∧ t.inbox = s.inbox ∧
    t.sent = s.sent ∧ t.reply = s.reply

/-- The MMIO reads (20_memory.md R65). -/
def isRead : Instr → Bool
  | .rdMcr | .rdCtrl1 | .rdRxmgmask | .rdRx14mask | .rdRx15mask | .rdEsr1 | .rdImask2 | .rdImask1 | .rdIflag2 => true
  | .rdIflag1 | .rdCtrl2 | .rdRxfgmask | .rdFdctrl | .rdFdcbt | .rdFdcrc | .rdErfcr | .rdErfier | .rdErfsr => true
  | .rdMb _ | .rdUndecl _ => true
  | .wrMcr _ | .wrCtrl1 _ | .wrRxmgmask _ | .wrRx14mask _ | .wrRx15mask _ | .wrEsr1 _ | .wrImask2 _ => false
  | .wrImask1 _ | .wrIflag2 _ | .wrIflag1 _ | .wrCtrl2 _ | .wrRxfgmask _ | .wrFdctrl _ | .wrFdcbt _ => false
  | .wrFdcrc _ | .wrErfcr _ | .wrErfier _ | .wrErfsr _ => false
  | .wrMb _ _ | .wrUndecl _ _ | .busAccept | .busRx _ | .reset => false
  | .refusedSize _ _ _ | .refusedAlign _ _ | .refusedBus _ _ | .refusedPlatform _ _ => false

/-- The refused selectors of the table, which name no operation (43_controller_core.md R204 (a) to (c)). -/
def isRefusedSelector : Instr → Bool
  | .refusedSize _ _ _ | .refusedAlign _ _ | .refusedBus _ _ | .refusedPlatform _ _ => true
  | .rdMcr | .rdCtrl1 | .rdRxmgmask | .rdRx14mask | .rdRx15mask | .rdEsr1 | .rdImask2 | .rdImask1 | .rdIflag2 => false
  | .rdIflag1 | .rdCtrl2 | .rdRxfgmask | .rdFdctrl | .rdFdcbt | .rdFdcrc | .rdErfcr | .rdErfier | .rdErfsr => false
  | .wrMcr _ | .wrCtrl1 _ | .wrRxmgmask _ | .wrRx14mask _ | .wrRx15mask _ | .wrEsr1 _ | .wrImask2 _ => false
  | .wrImask1 _ | .wrIflag2 _ | .wrIflag1 _ | .wrCtrl2 _ | .wrRxfgmask _ | .wrFdctrl _ | .wrFdcbt _ => false
  | .wrFdcrc _ | .wrErfcr _ | .wrErfier _ | .wrErfsr _ => false
  | .rdMb _ | .wrMb _ _ | .rdUndecl _ | .wrUndecl _ _ | .busAccept | .busRx _ | .reset => false

end Sys2Proof.Machine
end

