-- ==== Sys2Proof/Certificates/Slice0/Obligations.lean ====
section
/-! DEFINITION. The statements for the provers. Each docstring names the rule of the spec it formalises. `exec`, `step`
and every number are the machine at the default parameter record (log 6) unless the statement quantifies over `Config`. -/

open Sys2Proof Sys2Proof.Machine

/-! ### Encoding -/

/-- Decoding the request of a well-formed operation gives the operation back, operands included (R90, R92, R94). -/
def Obligations.EncodedOperationDecodesBack : Prop :=
  ∀ i : Instr, i.wf = true → decode (encode i) = i

/-- Every request decodes to a well-formed term whose request has the same selector, so no selector bit is dropped and
no selector has two meanings (R92, R93). -/
def Obligations.DecodedOperationKeepsItsSelector : Prop :=
  ∀ q : Request, (decode q).wf = true ∧ (encode (decode q)).sel = q.sel

/-- The opcode table is total and its first applying row is the row the prose map of R93 gives, for all 65536 selectors
(R92, R93; 20_memory.md R69). -/
def Obligations.OpcodeTableIsTheOperationMap : Prop :=
  ∀ sel : Sel, (∃ row ∈ opcodeTable, row.applies sel = true) ∧ classify sel = operationMap Config.default sel

/-- Selectors written out in 95_test_vectors.md section 2.6 decode to the operations listed there. -/
def Obligations.DocumentedSelectorsDecode : Prop :=
  decode (.bare 0x0000#16) = .rdMcr ∧ decode (.withData 0x4000#16 5#32) = .wrMcr 5#32 ∧
  decode (.bare 0x0030#16) = .rdIflag1 ∧ decode (.withData 0x4C14#16 3#32) = .wrErfsr 3#32 ∧
  decode (.bare 0x0C18#16) = .rdUndecl 0xC18#12 ∧ decode (.bare 0x0080#16) = .rdMb 0 ∧
  decode (.withData 0x487C#16 9#32) = .wrMb 511 9#32 ∧ decode (.withData 0x4880#16 9#32) = .wrUndecl 0x880#12 9#32 ∧
  decode (.bare 0x1000#16) = .refusedSize .read .one 0x000#12 ∧
  decode (.bare 0x6100#16) = .refusedSize .write .two 0x100#12 ∧
  decode (.bare 0x4102#16) = .refusedAlign .write 0x102#12 ∧ decode (.bare 0x8000#16) = .busAccept ∧
  decode ⟨0x8001#16, 0#32, ⟨0x321, false, 1, [7#8]⟩⟩ = .busRx ⟨0x321, false, 1, [7#8]⟩ ∧
  decode (.bare 0x8002#16) = .refusedBus 0#2 2#12 ∧ decode (.bare 0xC000#16) = .reset ∧
  decode (.bare 0xFFFF#16) = .refusedPlatform 3#2 0xFFF#12

/-! ### Steps -/

/-- A step runs the oldest issued operation, decoded; what it adds is taking that request from `inbox`. With nothing
issued a step changes nothing. The presentation through `inbox` and the idle step are the model's (log 1, 2). -/
def Obligations.StepRunsTheDecodedOperation : Prop :=
  (∀ (s : State) (q : Request) (rest : List Request), s.inbox = q :: rest →
    step s = exec (decode q) { s with inbox := rest }) ∧
  (∀ (s : State) (i : Instr) (rest : List Request), i.wf = true → s.inbox = encode i :: rest →
    step s = exec i { s with inbox := rest }) ∧
  (∀ s : State, s.inbox = [] → step s = .next s)

/-- Operations run one at a time, in the order issued: a step that runs an operation takes exactly that one from `inbox`
(00_scope.md R10; 20_memory.md R64, R72; log 1). -/
def Obligations.EveryStepTakesOneOperation : Prop :=
  ∀ (s t : State) (q : Request) (rest : List Request), s.inbox = q :: rest → step s = .next t → t.inbox = rest

/-- Every operation of the block completes, in every state; `BUS.RX` when the bus may call it (00_scope.md R14;
60_exceptions.md R220; 42_bus_client_receive.md R191). -/
def Obligations.EveryOperationCompletes : Prop :=
  ∀ (i : Instr) (s : State), isRefusedSelector i = false →
    (∀ f : Frame, i = .busRx f → s.regs.iflag1.getLsbD 0 = false) → ∃ t : State, exec i s = .next t

/-- The refused selectors of the table stop, each by its reason (43_controller_core.md R204 (a) to (c)). -/
def Obligations.RefusedSelectorsStop : Prop :=
  ∀ s : State, (∀ dir size off, exec (.refusedSize dir size off) s = .refused .subWordSize) ∧
    (∀ dir off, exec (.refusedAlign dir off) s = .refused .subWordAlign) ∧
    (∀ size func, exec (.refusedBus size func) s = .refused .noBusOperation) ∧
    (∀ size func, exec (.refusedPlatform size func) s = .refused .noPlatformOperation)

/-! ### Invariants and reset -/

/-- Every step from a state that meets the invariant gives one that meets it: the status equations (10_state.md R27),
`ESR1` zero (R28), the store in canonical form, every sent frame legal (00_scope.md R13). -/
def Obligations.EveryStepKeepsTheInvariant : Prop :=
  ∀ s t : State, Inv s → step s = .next t → Inv t

/-- The invariant holds right after reset. -/
def Obligations.ResetMeetsTheInvariant : Prop := Inv State.reset

/-- The state after construction (10_state.md R37): the reset values of the table, the store zero, and what is derived
from them. Construction gives it when attachment succeeds and no controller when it fails (43_controller_core.md R210).
The values other than `MDIS`, `NOTRDY` and `LPMACK` are the spec's defaults (log 7). -/
def Obligations.ConstructionGivesTheResetState : Prop :=
  construct .attached = some State.reset ∧ construct .failed = none ∧
  State.reset.regs.mcr = 0x88100000#32 ∧ (∀ r : Reg, r ≠ .mcr → State.reset.regs.get r = 0#32) ∧
  (∀ i : Fin 512, mb State.reset i.val = 0#32) ∧ irq State.reset = false ∧
  canAccept Config.default State.reset = true ∧ mode Config.default State.reset = .disabled

/-- `RESET` (43_controller_core.md R207): every register takes its reset value and every buffer word is zero, whatever
the state was; the block's outputs follow. The issued operations and the history of `send` calls stay (log 4). -/
def Obligations.HardResetReloadsEverything : Prop :=
  ∀ s : State, ∃ t : State, exec .reset s = .next t ∧ t.regs.mcr = 0x88100000#32 ∧
    (∀ r : Reg, r ≠ .mcr → t.regs.get r = 0#32) ∧ (∀ a : Nat, t.mem.readByte a = 0#8) ∧
    (∀ i : Nat, mb t i = 0#32) ∧ t.inbox = s.inbox ∧ t.sent = s.sent ∧ t.reply = .none ∧ irq t = false ∧
    canAccept Config.default t = true ∧ mode Config.default t = .disabled

/-- The spec's defaults satisfy the constraints of 00_scope.md R8. -/
def Obligations.DefaultRecordIsValid : Prop := Config.default.Valid

/-! ### Register reads and writes -/

/-- `RD.<name>` for each of the eighteen declared registers: "returns `x[r]`, all 32 bits, and changes nothing"
(40_register_bank.md R140). -/
def Obligations.RegisterReadReturnsTheRegister : Prop :=
  ∀ (r : Reg) (s : State), exec (Instr.read r) s = .next { s with reply := .word (s.regs.get r) }

/-- A read, anywhere in the region, changes nothing but the returned value, and repeating it returns the same value and
leaves the same state (20_memory.md R65). -/
def Obligations.ReadsHaveNoSideEffects : Prop :=
  ∀ (i : Instr) (s : State), isRead i = true → ∃ v : Word, exec i s = .next { s with reply := .word v } ∧
    exec i { s with reply := .word v } = .next { s with reply := .word v }

/-- A write of one of the twelve storage-only registers stores the word as written and changes nothing else
(40_register_bank.md R123 to R126, R132 to R139). -/
def Obligations.StorageRegisterWriteStoresTheWord : Prop :=
  ∀ (r : Reg) (V : Word) (s : State), r.isStorage = true →
    exec (Instr.write r V) s = .next { s with regs := s.regs.set r V, reply := .none }

/-- `WR.ESR1` clears the bits written 1 and changes nothing else (40_register_bank.md R127). -/
def Obligations.ErrorStatusWriteClearsBits : Prop :=
  ∀ (V : Word) (s : State), exec (.wrEsr1 V) s =
    .next { s with regs := { s.regs with esr1 := s.regs.esr1 &&& ~~~V }, reply := .none }

/-- `WR.IFLAG1` and `WR.IFLAG2` clear the flags written 1 and change nothing else; clearing bit 0 of `IFLAG1` re-arms
reception, and nothing else about `canAccept` changes (40_register_bank.md R130, R131). -/
def Obligations.FlagWriteClearsFlags : Prop :=
  ∀ (V : Word) (s : State),
    (∃ t : State, exec (.wrIflag1 V) s = .next t ∧
      t = { s with regs := { s.regs with iflag1 := s.regs.iflag1 &&& ~~~V }, reply := .none } ∧
      canAccept Config.default t = (V.getLsbD 0 || canAccept Config.default s)) ∧
    (∃ t : State, exec (.wrIflag2 V) s = .next t ∧
      t = { s with regs := { s.regs with iflag2 := s.regs.iflag2 &&& ~~~V }, reply := .none } ∧
      canAccept Config.default t = canAccept Config.default s)

/-- `WR.IMASK1` and `WR.IMASK2` store the word, change nothing else, and the IRQ level is at once that of the new mask
(40_register_bank.md R128, R129). -/
def Obligations.MaskWriteSetsTheMask : Prop :=
  ∀ (V : Word) (s : State),
    (∃ t : State, exec (.wrImask1 V) s = .next t ∧ t = { s with regs := { s.regs with imask1 := V }, reply := .none } ∧
      (irq t = true ↔ V &&& s.regs.iflag1 ≠ 0#32 ∨ s.regs.imask2 &&& s.regs.iflag2 ≠ 0#32)) ∧
    (∃ t : State, exec (.wrImask2 V) s = .next t ∧ t = { s with regs := { s.regs with imask2 := V }, reply := .none } ∧
      (irq t = true ↔ s.regs.imask1 &&& s.regs.iflag1 ≠ 0#32 ∨ V &&& s.regs.iflag2 ≠ 0#32))

/-- `WR.MCR` without `SOFTRST` (40_register_bank.md R121): every bit but the three status bits takes the written value,
the status bits take the values their equations give, nothing else changes. The bit positions are the spec's defaults
(92_eei_decisions.md D2; log 6). -/
def Obligations.McrWriteStoresAndRecomputesStatus : Prop :=
  ∀ (V : Word) (s : State), V.getLsbD 25 = false → ∃ m : Word,
    exec (.wrMcr V) s = .next { s with regs := { s.regs with mcr := m }, reply := .none } ∧
    (∀ b : Nat, b < 32 → b ≠ 27 → b ≠ 24 → b ≠ 20 → m.getLsbD b = V.getLsbD b) ∧
    m.getLsbD 20 = V.getLsbD 31 ∧ m.getLsbD 24 = (V.getLsbD 28 && V.getLsbD 30) ∧
    m.getLsbD 27 = (V.getLsbD 31 || (V.getLsbD 28 && V.getLsbD 30))

/-- `WR.MCR` with `SOFTRST` (40_register_bank.md R121, R122): the soft reset inside the write. `MDIS` is kept as written,
every other bit of `MCR` takes its reset value or follows `MDIS`, `ESR1` and both masks are reloaded, nothing else
changes, the IRQ level is low. The reset values are the spec's defaults (log 7). -/
def Obligations.McrWriteWithSoftReset : Prop :=
  ∀ (V : Word) (s : State), V.getLsbD 25 = true → ∃ t : State, exec (.wrMcr V) s = .next t ∧
    t = { s with
      regs := { s.regs with
        mcr := if V.getLsbD 31 then 0x88100000#32 else 0x00000000#32, esr1 := 0#32, imask1 := 0#32, imask2 := 0#32 }
      reply := .none } ∧
    irq t = false

/-- The soft reset at every valid parameter record (40_register_bank.md R122; 10_state.md R38): `MDIS` as written, the
status equations, every `MCR` bit outside `PRESERVE` reloaded, `ESR1` and both masks reloaded, everything else kept. -/
def Obligations.SoftResetReloadsItsSubset : Prop :=
  ∀ (c : Config) (V : Word) (s t : State), c.Valid → V.getLsbD c.softrstBit = true → t = regWrite c .mcr V s →
    t.regs.mcr.getLsbD c.mdisBit = V.getLsbD c.mdisBit ∧ StatusEquations c t.regs.mcr ∧
    (∀ b : Nat, b < 32 → b ∉ [c.mdisBit, c.notrdyBit, c.softrstBit, c.frzackBit, c.lpmackBit] →
      t.regs.mcr.getLsbD b = (c.decl .mcr).reset.getLsbD b) ∧
    (∀ r : Reg, r = .esr1 ∨ r = .imask1 ∨ r = .imask2 → t.regs.get r = (c.decl r).reset) ∧
    (∀ r : Reg, r ≠ .mcr → r ≠ .esr1 → r ≠ .imask1 → r ≠ .imask2 → t.regs.get r = s.regs.get r) ∧
    t.mem = s.mem ∧ t.inbox = s.inbox ∧ t.sent = s.sent ∧ t.reply = s.reply

/-- The status equations of 10_state.md R27 hold after a hard reset and after every write of `MCR`, from any state, and no
other register write, buffer write or delivery changes `MCR`, at every valid parameter record. Validity adds the
model's clauses to 00_scope.md R8 (log 15). -/
def Obligations.StatusEquationsAfterEveryOperation : Prop :=
  ∀ (c : Config) (s : State), c.Valid →
    StatusEquations c (hardReset c s).regs.mcr ∧ (∀ V : Word, StatusEquations c (regWrite c .mcr V s).regs.mcr) ∧
    (∀ (r : Reg) (V : Word), r ≠ .mcr → (regWrite c r V s).regs.mcr = s.regs.mcr) ∧
    (∀ (i : Nat) (V : Word), (mbWrite c i V s).regs.mcr = s.regs.mcr) ∧
    (∀ f : Frame, (deliver c f s).regs.mcr = s.regs.mcr)

/-- Write-1-to-clear and overwrite, bit by bit, at every parameter record (00_scope.md R16): for `W1C` a 1 in `V` inside
the mask clears the bit, a 0 leaves it, no bit is set; for `OVERWRITE` a bit inside the mask takes the written value; in
both a bit outside the mask is never altered. -/
def Obligations.MaskedStoreCombinesBitByBit : Prop :=
  ∀ (c : Config) (r : Reg) (V : Word) (s : State) (b : Nat), b < 32 →
    ((c.decl r).policy = .w1c → ((maskedStore c r V s).regs.get r).getLsbD b =
      ((s.regs.get r).getLsbD b && !(V.getLsbD b && (c.decl r).wmask.getLsbD b))) ∧
    ((c.decl r).policy = .overwrite → ((maskedStore c r V s).regs.get r).getLsbD b =
      (if (c.decl r).wmask.getLsbD b then V.getLsbD b else (s.regs.get r).getLsbD b)) ∧
    ((c.decl r).wmask.getLsbD b = false → ((maskedStore c r V s).regs.get r).getLsbD b = (s.regs.get r).getLsbD b)

/-- The write-mask law (40_register_bank.md R141), at every valid parameter record: outside its mask a register keeps its
bits, except that `MCR` holds the status values of 10_state.md R27; at the default record the bits of `MCR` outside its
mask are exactly the three status bits, and `WR.<name>` is that register write. -/
def Obligations.WriteMaskLaw : Prop :=
  ∀ (c : Config) (r : Reg) (V : Word) (s : State), c.Valid →
    (r ≠ .mcr → ∀ b : Nat, b < 32 → (c.decl r).wmask.getLsbD b = false →
      ((regWrite c r V s).regs.get r).getLsbD b = (s.regs.get r).getLsbD b) ∧
    StatusEquations c (regWrite c .mcr V s).regs.mcr ∧
    (∀ b : Nat, b < 32 → ((Config.default.decl .mcr).wmask.getLsbD b = false ↔ b = 27 ∨ b = 24 ∨ b = 20)) ∧
    exec (Instr.write r V) s = .next { regWrite Config.default r V s with reply := .none }

/-- A register write changes no other register and no buffer word, except that `WR.MCR` with `SOFTRST` also reloads
`ESR1`, `IMASK1`, `IMASK2`; it sends nothing, and only `WR.IFLAG1` can change `canAccept` (40_register_bank.md R142). -/
def Obligations.RegisterWritesAreIsolated : Prop :=
  ∀ (r : Reg) (V : Word) (s : State), ∃ t : State, exec (Instr.write r V) s = .next t ∧
    (∀ q : Reg, q ≠ r → ¬ (r = .mcr ∧ V.getLsbD 25 = true ∧ (q = .esr1 ∨ q = .imask1 ∨ q = .imask2)) →
      t.regs.get q = s.regs.get q) ∧
    t.mem = s.mem ∧ t.inbox = s.inbox ∧ t.sent = s.sent ∧ t.reply = .none ∧
    (r ≠ .iflag1 → canAccept Config.default t = canAccept Config.default s)

/-- Repeating a register write at once changes nothing more, the soft reset included (20_memory.md R67;
40_register_bank.md R122 (d): "triggering soft-reset twice consecutively yields the same end state as once"). -/
def Obligations.RegisterWriteTwiceIsOnce : Prop :=
  ∀ (r : Reg) (V : Word) (s t : State), exec (Instr.write r V) s = .next t → exec (Instr.write r V) t = .next t

/-- The storage-only registers decide nothing (10_state.md R21): two states that differ at most in them behave alike under
every operation but their own reads; and only a register's own write or `RESET` changes one. -/
def Obligations.StorageRegistersDecideNothing : Prop :=
  (∀ (i : Instr) (s s' : State), agreeOffStorage s s' → (∀ r : Reg, r.isStorage = true → i ≠ Instr.read r) →
    (∃ t t' : State, exec i s = .next t ∧ exec i s' = .next t' ∧ agreeOffStorage t t') ∨
    (∃ e : Refusal, exec i s = .refused e ∧ exec i s' = .refused e)) ∧
  (∀ (i : Instr) (s t : State) (r : Reg), r.isStorage = true → exec i s = .next t →
    t.regs.get r ≠ s.regs.get r → i = .reset ∨ ∃ V : Word, i = Instr.write r V)

/-! ### Mode -/

/-- The mode is read off `MDIS`, `HALT`, `FRZ`: `Disabled` overrides all else, `Freeze` overrides `Normal`
(43_controller_core.md R205), at every parameter record. -/
def Obligations.ModeIsReadOffMcr : Prop :=
  ∀ (c : Config) (s : State),
    (mode c s = .disabled ↔ s.regs.mcr.getLsbD c.mdisBit = true) ∧
    (mode c s = .freeze ↔ s.regs.mcr.getLsbD c.mdisBit = false ∧ s.regs.mcr.getLsbD c.haltBit = true ∧
      s.regs.mcr.getLsbD c.frzBit = true) ∧
    (mode c s = .normal ↔ s.regs.mcr.getLsbD c.mdisBit = false ∧
      (s.regs.mcr.getLsbD c.haltBit && s.regs.mcr.getLsbD c.frzBit) = false)

/-- The mode after `WR.MCR`, from any state (43_controller_core.md R206, table): by the written `MDIS`, `HALT`, `FRZ`, or
with `SOFTRST` by `MDIS` alone. -/
def Obligations.McrWriteSetsTheMode : Prop :=
  ∀ (V : Word) (s : State), ∃ t : State, exec (.wrMcr V) s = .next t ∧ mode Config.default t =
    (if V.getLsbD 31 then .disabled
     else if V.getLsbD 25 = false ∧ V.getLsbD 28 = true ∧ V.getLsbD 30 = true then .freeze else .normal)

/-- Only `WR.MCR` and `RESET` can change the mode (43_controller_core.md R206). -/
def Obligations.OnlyMcrWriteAndResetChangeTheMode : Prop :=
  ∀ (i : Instr) (s t : State), exec i s = .next t → mode Config.default t ≠ mode Config.default s →
    i = .reset ∨ ∃ V : Word, i = .wrMcr V

/-- What `MCR` decides (43_controller_core.md R208): besides its own read and write and the hard reset, an operation does
the same whatever `MCR` holds, except that a buffer write reads `FRZACK`. -/
def Obligations.ModeGatesOnlyTransmission : Prop :=
  ∀ (i : Instr) (s : State) (m : Word), i ≠ .rdMcr → (∀ V : Word, i ≠ .wrMcr V) → i ≠ .reset →
    (∀ (w : Fin 512) (V : Word), i = .wrMb w V → m.getLsbD 24 = s.regs.mcr.getLsbD 24) →
    (∀ t : State, exec i s = .next t → exec i (withMcr m s) = .next (withMcr m t)) ∧
    (∀ e : Refusal, exec i s = .refused e → exec i (withMcr m s) = .refused e)

/-! ### Interrupts -/

/-- The IRQ level is asserted exactly when some source 0 to 63 is pending and enabled (60_exceptions.md R224, R225). -/
def Obligations.IrqIsSomePendingEnabledSource : Prop :=
  ∀ s : State, irq s = true ↔ ∃ n : Nat, n < 64 ∧ bufferFlag n s = true ∧ bufferMask n s = true

/-- The operations that can change the IRQ level, and no others (60_exceptions.md R226). -/
def Obligations.IrqChangesOnlyWhereListed : Prop :=
  ∀ (i : Instr) (s t : State), exec i s = .next t → irq t ≠ irq s →
    (∃ V : Word, i = .wrImask1 V ∨ i = .wrImask2 V ∨ i = .wrIflag1 V ∨ i = .wrIflag2 V) ∨
    (∃ V : Word, i = .wrMcr V ∧ V.getLsbD 25 = true) ∨
    (∃ (w : Fin 512) (V : Word), i = .wrMb w V ∧ w.val % 4 = 0 ∧ s.regs.mcr.getLsbD 24 = false ∧
      slice V 27 24 = 0xC) ∨
    (∃ f : Frame, i = .busRx f) ∨ i = .reset

/-- Where the IRQ level can change, at every valid parameter record (60_exceptions.md R226; 92_eei_decisions.md, "How to use
the parameters"): a register write changes it only on a mask or flag register or with a soft reset, a buffer write only if
it transmits from a buffer that owns a flag. -/
def Obligations.IrqChangesOnlyWhereListedAtEveryRecord : Prop :=
  ∀ (c : Config) (s : State), c.Valid →
    (∀ (r : Reg) (V : Word), irq (regWrite c r V s) ≠ irq s →
      r = .imask1 ∨ r = .imask2 ∨ r = .iflag1 ∨ r = .iflag2 ∨ (r = .mcr ∧ V.getLsbD c.softrstBit = true)) ∧
    (∀ (i : Nat) (V : Word), irq (mbWrite c i V s) ≠ irq s → txTrigger c i V s = true ∧ i / 4 < 64)

/-- A flag is set only by a hardware event: a transmit dispatch of its buffer, or for buffer 0 a reception
(10_state.md R30; 60_exceptions.md R225). -/
def Obligations.FlagsAreSetOnlyByHardwareEvents : Prop :=
  ∀ (i : Instr) (s t : State) (n : Fin 128), exec i s = .next t → bufferFlag n.val s = false →
    bufferFlag n.val t = true →
    (∃ V : Word, i = .wrMb (bufferWord n 0) V ∧ s.regs.mcr.getLsbD 24 = false ∧ slice V 27 24 = 0xC) ∨
    (n.val = 0 ∧ ∃ f : Frame, i = .busRx f)

/-- A flag is cleared only by a 1 written to its bit, or by a hard reset: not by a read, not by a soft reset
(60_exceptions.md R225). -/
def Obligations.FlagsAreClearedOnlyByWriteOrReset : Prop :=
  ∀ (i : Instr) (s t : State) (n : Fin 128), exec i s = .next t → bufferFlag n.val s = true →
    bufferFlag n.val t = false →
    (∃ V : Word, i = .wrIflag1 V ∧ n.val < 32 ∧ V.getLsbD n.val = true) ∨
    (∃ V : Word, i = .wrIflag2 V ∧ 32 ≤ n.val ∧ V.getLsbD (n.val - 32) = true) ∨ i = .reset

/-- `ACK n` clears the flag of buffer `n` and no other (30_encoding.md R108); writing back what was read OR a bit clears
every flag of the register (70_reset_and_hazards.md R262). -/
def Obligations.AcknowledgeClearsExactlyOneFlag : Prop :=
  (∀ (n : Fin 64) (s : State), ∃ t : State, execAll (Pseudo.ack n).expand s = .next t ∧ bufferFlag n.val t = false ∧
    ∀ k : Nat, k ≠ n.val → bufferFlag k t = bufferFlag k s) ∧
  (∀ (m : Word) (s : State), ∃ t : State, exec (.wrIflag1 (s.regs.iflag1 ||| m)) s = .next t ∧ t.regs.iflag1 = 0#32)

/-! ### The message-buffer store and transmission -/

/-- `RD.MB` (41_message_buffer_store.md R170): the selector `0x0000 | off` of word `i` reads `mb[i]`, the raw stored word,
and changes nothing; after a hard reset every word reads zero. -/
def Obligations.BufferReadReturnsTheWord : Prop :=
  ∀ (i : Fin 512) (s : State),
    decode (.bare (BitVec.ofNat 16 (0x080 + 4 * i.val))) = .rdMb i ∧
    exec (.rdMb i) s = .next { s with reply := .word (mb s i.val) } ∧
    mb (hardReset Config.default s) i.val = 0#32

/-- `WR.MB` stores the word whole, in every mode, and no other byte of the store changes (41_message_buffer_store.md
R171; byte addresses `4i` to `4i + 3` are the model's, log 8). -/
def Obligations.BufferWriteStoresExactlyItsWord : Prop :=
  ∀ (w : Fin 512) (V : Word) (s : State), s.mem.wf → ∃ t : State, exec (.wrMb w V) s = .next t ∧ mb t w.val = V ∧
    (∀ a : Nat, a < 4 * w.val ∨ 4 * w.val + 4 ≤ a → t.mem.readByte a = s.mem.readByte a) ∧
    (∀ j : Nat, j ≠ w.val → mb t j = mb s j) ∧ t.mem.wf ∧ t.inbox = s.inbox ∧ t.reply = .none

/-- `WR.MB` that does not trigger (not a control word, or frozen, or a code other than "transmit data") only stores
(41_message_buffer_store.md R171, R172, R178). -/
def Obligations.UntriggeredBufferWriteOnlyStores : Prop :=
  ∀ (w : Fin 512) (V : Word) (s : State),
    w.val % 4 ≠ 0 ∨ s.regs.mcr.getLsbD 24 = true ∨ slice V 27 24 ≠ 0xC →
    exec (.wrMb w V) s = .next { s with mem := s.mem.writeWord w.val V, reply := .none }

/-- `WR.MB` of a control word with the "transmit data" code outside freeze, from any buffer and in any mode
(41_message_buffer_store.md R172 to R177): the word is stored, exactly one frame is sent, decoded from the control word
and the buffer's other bytes as they stand, the flag of a buffer below 64 is set, nothing else changes. -/
def Obligations.TriggeringControlWordTransmits : Prop :=
  ∀ (n : Fin 128) (C : Word) (s : State), s.regs.mcr.getLsbD 24 = false → slice C 27 24 = 0xC →
    exec (.wrMb (bufferWord n 0) C) s = .next
      { s with
        regs := if n.val < 32 then { s.regs with iflag1 := s.regs.iflag1 ||| bit n.val }
          else if n.val < 64 then { s.regs with iflag2 := s.regs.iflag2 ||| bit (n.val - 32) } else s.regs
        mem := s.mem.writeWord (4 * n.val) C
        sent := s.sent ++
          [{ id := (mb s (4 * n.val + 1)).toNat % (if C.getLsbD 21 then 2 ^ 29 else 2 ^ 11)
             ext := C.getLsbD 21
             dlc := min (slice C 19 16) 8
             data := (List.range (min (slice C 19 16) 8)).map fun k => s.mem.readByte (16 * n.val + 8 + k) }]
        reply := .none }

/-- An operation sends one frame if it is a triggering control-word write and none otherwise; in particular nothing is
sent while `FRZACK` is 1 (20_memory.md R66 (4); 41_message_buffer_store.md R172, R174; 43_controller_core.md R208). -/
def Obligations.OnlyTriggeringWritesSend : Prop :=
  ∀ (i : Instr) (s t : State), exec i s = .next t →
    (t.sent = s.sent ∧ ¬ ∃ (w : Fin 512) (V : Word), i = .wrMb w V ∧ txTrigger Config.default w.val V s = true) ∨
    ((∃ f : Frame, t.sent = s.sent ++ [f] ∧ f.Legal) ∧
      ∃ (n : Fin 128) (V : Word), i = .wrMb (bufferWord n 0) V ∧ s.regs.mcr.getLsbD 24 = false ∧ slice V 27 24 = 0xC)

/-- The transmit round trip (41_message_buffer_store.md R180): writing ID word, data words and last a control word with
the "transmit data" code, outside freeze, makes exactly one `send` call, whose frame is the decoding of the four words
written, leaves the four words in the store and sets the buffer's flag if it has one. -/
def Obligations.TransmitRoundTrip : Prop :=
  ∀ (n : Fin 128) (C idw d0 d1 : Word) (s : State), s.mem.wf → s.regs.mcr.getLsbD 24 = false → slice C 27 24 = 0xC →
    ∃ t : State, execAll (Pseudo.tx n C idw d0 d1).expand s = .next t ∧
      t.sent = s.sent ++
        [{ id := idw.toNat % (if C.getLsbD 21 then 2 ^ 29 else 2 ^ 11)
           ext := C.getLsbD 21
           dlc := min (slice C 19 16) 8
           data := [wordByte d0 0, wordByte d0 1, wordByte d0 2, wordByte d0 3, wordByte d1 0, wordByte d1 1,
             wordByte d1 2, wordByte d1 3].take (min (slice C 19 16) 8) }] ∧
      mb t (4 * n.val) = C ∧ mb t (4 * n.val + 1) = idw ∧ mb t (4 * n.val + 2) = d0 ∧ mb t (4 * n.val + 3) = d1 ∧
      (n.val < 64 → bufferFlag n.val t = true)

/-- The transmit round trip at every parameter record (41_message_buffer_store.md R180; 92_eei_decisions.md, "How to use
the parameters"). -/
def Obligations.TransmitRoundTripAtEveryRecord : Prop :=
  ∀ (c : Config) (n : Fin 128) (C idw d0 d1 : Word) (s t : State), s.mem.wf → frozen c s = false →
    slice C c.codeHi c.codeLo = c.codeTxData →
    t = mbWrite c (4 * n.val) C (mbWrite c (4 * n.val + 3) d1 (mbWrite c (4 * n.val + 2) d0
      (mbWrite c (4 * n.val + 1) idw s))) →
    t.sent = s.sent ++ [txFrame c C idw d0 d1] ∧ (n.val < 64 → bufferFlag n.val t = true) ∧
      (∀ k : Nat, k ≠ n.val → bufferFlag k t = bufferFlag k s)

/-- A transmission from the receive slot blocks reception (41_message_buffer_store.md R179; 70_reset_and_hazards.md
R263). -/
def Obligations.TransmitFromReceiveSlotBlocksReception : Prop :=
  ∀ (C : Word) (s : State), s.regs.mcr.getLsbD 24 = false → slice C 27 24 = 0xC →
    ∃ t : State, exec (.wrMb 0 C) s = .next t ∧ canAccept Config.default t = false

/-! ### Reception -/

/-- `BUS.ACCEPT` returns whether the receive flag is clear, and changes nothing (42_bus_client_receive.md R190). -/
def Obligations.AcceptReportsTheReceiveFlag : Prop :=
  ∀ s : State, exec .busAccept s = .next { s with reply := .bool (!s.regs.iflag1.getLsbD 0) }

/-- `BUS.RX` while the receive flag is clear, for every frame, malformed ones included (42_bus_client_receive.md R192;
30_encoding.md R103): the four words of buffer 0 as the frame gives them, clamped and zero-filled, the flag set, every
other byte and register and the transmit output unchanged. -/
def Obligations.DeliveryFillsTheReceiveSlot : Prop :=
  ∀ (f : Frame) (s : State), s.mem.wf → s.regs.iflag1.getLsbD 0 = false → ∃ t : State,
    exec (.busRx f) s = .next t ∧
    (∀ b : Nat, b < 32 → (mb t 0).getLsbD b =
      ((b == 21 && f.ext) || (decide (16 ≤ b ∧ b < 20) && (min f.dlc 8).testBit (b - 16)))) ∧
    (mb t 1).toNat = f.id % (if f.ext then 2 ^ 29 else 2 ^ 11) ∧
    (∀ k : Nat, k < 8 → t.mem.readByte (8 + k) = if k < min f.dlc 8 then f.data.getD k 0#8 else 0#8) ∧
    (∀ a : Nat, 16 ≤ a → t.mem.readByte a = s.mem.readByte a) ∧ t.mem.wf ∧
    t.regs = { s.regs with iflag1 := s.regs.iflag1 ||| 1#32 } ∧ t.inbox = s.inbox ∧ t.sent = s.sent ∧
    t.reply = .none ∧ canAccept Config.default t = false

/-- `BUS.RX` while the receive flag is set is not an operation and is refused (42_bus_client_receive.md R193;
43_controller_core.md R204 (d)). -/
def Obligations.DeliveryWhileFullIsRefused : Prop :=
  ∀ (f : Frame) (s : State), s.regs.iflag1.getLsbD 0 = true → exec (.busRx f) s = .refused .receiveWhileFull

/-- A legal frame is recoverable from the words of its reception, at every valid parameter record: decoding them as a
transmit would (30_encoding.md R102) gives the frame received (R103). -/
def Obligations.ReceivedFrameIsRecoverable : Prop :=
  ∀ (c : Config) (f : Frame), c.Valid → f.Legal → txFrame c (rxCtrl c f) (rxId f) (rxData0 f) (rxData1 f) = f

/-- Re-arming (42_bus_client_receive.md R196): the receive flag is cleared only by `WR.IFLAG1` with a 1 in its bit or by a
hard reset; both clear it, and the next frame is then accepted. -/
def Obligations.OnlyFlagWriteOrResetRearms : Prop :=
  (∀ (i : Instr) (s t : State), exec i s = .next t → canAccept Config.default s = false →
    canAccept Config.default t = true →
    i = .reset ∨ ∃ V : Word, i = .wrIflag1 V ∧ V.getLsbD Config.default.rxFlagBit = true) ∧
  (∀ (s : State) (V : Word) (f : Frame), V.getLsbD Config.default.rxFlagBit = true →
    (∃ t u : State, exec (.wrIflag1 V) s = .next t ∧ canAccept Config.default t = true ∧ exec (.busRx f) t = .next u) ∧
    (∃ t u : State, exec .reset s = .next t ∧ canAccept Config.default t = true ∧ exec (.busRx f) t = .next u))

/-- Receive backpressure (42_bus_client_receive.md R197; R191, R195): after a delivery the next frame is refused as an
operation and dropped by the bus's test-and-deliver step; after the flag is cleared it is accepted. -/
def Obligations.ReceiveBackpressure : Prop :=
  ∀ (f g : Frame) (s t : State), exec (.busRx f) s = .next t →
    canAccept Config.default s = true ∧ canAccept Config.default t = false ∧
    exec (.busRx g) t = .refused .receiveWhileFull ∧ busOffer g t = .next t ∧
    (∃ u v : State, exec (.wrIflag1 1#32) t = .next u ∧ exec (.busRx g) u = .next v ∧ busOffer g u = .next v)

/-- Receive backpressure at every valid parameter record (42_bus_client_receive.md R197; 92_eei_decisions.md, "How to use
the parameters"): a delivery fills the slot, and a writable 1 in the receive flag's bit empties it; the slot's flag is
the one flag a delivery sets. That the flag stands in the register of `RX_FLAG_GROUP` at records other than the default is
the model's reading (log 16: R190, R192, R196 write `IFLAG1`); validity adds the model's clauses to R8 (log 15). -/
def Obligations.ReceiveBackpressureAtEveryRecord : Prop :=
  ∀ (c : Config) (f : Frame) (V : Word) (s : State), c.Valid →
    canAccept c (deliver c f s) = false ∧
    (∀ k : Nat, k ≠ 32 * (c.rxFlagGroup - 1) + c.rxFlagBit → bufferFlag k (deliver c f s) = bufferFlag k s) ∧
    (V.getLsbD c.rxFlagBit = true → (c.decl (groupFlag c.rxFlagGroup)).wmask.getLsbD c.rxFlagBit = true →
      canAccept c (regWrite c (groupFlag c.rxFlagGroup) V s) = true)

/-! ### Undeclared offsets and the dispatcher -/

/-- Undeclared offsets hold no state (10_state.md R36): a read returns zero whatever was written there before, a write
changes nothing; their selectors decode to `RD.UNDECL` and `WR.UNDECL` (43_controller_core.md R202, R203; 30_encoding.md
R90, R94), at the default offsets (log 6) and in the model's operand layout (log 5). -/
def Obligations.UndeclaredOffsetsHoldNoState : Prop :=
  ∀ (off : Offset) (V : Word) (s : State),
    (off.isUndeclared = true → decode (.bare (0b0000#4 ++ off)) = .rdUndecl off ∧
      decode (.withData (0b0100#4 ++ off) V) = .wrUndecl off V) ∧
    exec (.rdUndecl off) s = .next { s with reply := .word 0#32 } ∧
    exec (.wrUndecl off V) s = .next { s with reply := .none }

/-- The dispatcher as the host sees it: for every admitted offset, decoding and running the access is `MemRead` and
`MemWrite` of 43_controller_core.md R200, R201. -/
def Obligations.AccessIsTheDispatcher : Prop :=
  ∀ (off : Offset) (V : Word) (s : State), off.toNat % 4 = 0 →
    exec (decode (.bare (0b0000#4 ++ off))) s = .next { s with reply := .word (memRead Config.default off s) } ∧
    exec (decode (.withData (0b0100#4 ++ off) V)) s =
      .next { memWrite Config.default off V s with reply := .none }

/-! ### The parameters that are not state (10_state.md R35) -/

/-- `step`, `exec` and `decode` are the parametrised machine at the default record, whatever the base address and the bus:
a request that an event presents is run as the decoded operation, and as the step from the state in which it is the
oldest issued (10_state.md R35; log 1, 6, 21). -/
def Obligations.MachineIsTheAssemblyAtTheDefaultRecord : Prop :=
  ∀ (a : Assembly) (e : Event) (q : Request) (s : State), a.config = Config.default → a.request e = some q →
    a.step e s = exec (decode q) s ∧ step { s with inbox := q :: s.inbox } = a.step e s

/-- The base address and the attached bus only say which events reach the controller and where it sends (10_state.md R33,
R35; 20_memory.md R71; 41_message_buffer_store.md R174): an access at one offset from either of two bases is the same
step, an address outside the region or another bus leaves the state alone, and an event makes no `send` call or one, of
a legal frame, on the attached bus. That an event which does not reach the controller is a step that changes nothing is
the model's (log 21). -/
def Obligations.BaseAndBusOnlySelectEvents : Prop :=
  (∀ (a b : Assembly) (dir : Dir) (size : BitVec 2) (off : Nat) (V : Word) (f : Frame) (s : State), a.config = b.config →
    a.step (.host dir size (a.base + off) V) s = b.step (.host dir size (b.base + off) V) s ∧
    a.step (.query a.bus) s = b.step (.query b.bus) s ∧ a.step (.deliver a.bus f) s = b.step (.deliver b.bus f) s ∧
    a.step .hardReset s = b.step .hardReset s) ∧
  (∀ (a : Assembly) (dir : Dir) (size : BitVec 2) (addr : Nat) (V : Word) (s : State),
    addr < a.base ∨ a.base + a.config.regionSize ≤ addr → a.step (.host dir size addr V) s = .next s) ∧
  (∀ (a : Assembly) (k : Nat) (f : Frame) (s : State), k ≠ a.bus →
    a.step (.query k) s = .next s ∧ a.step (.deliver k f) s = .next s) ∧
  (∀ (a : Assembly) (e : Event) (s t : State), a.step e s = .next t → a.transmitted t = a.transmitted s ∨
    ∃ f : Frame, f.Legal ∧ a.transmitted t = a.transmitted s ++ [(a.bus, f)])

/-- At every valid record, every step from a state that meets the invariant gives one that meets it: the status equations
(10_state.md R27), the store in canonical form, every sent frame legal (00_scope.md R13). The canonical form is the
model's (log 8), `Config.Valid` adds the clauses of log 15. -/
def Obligations.EveryStepKeepsTheInvariantAtEveryRecord : Prop :=
  ∀ (a : Assembly) (e : Event) (s t : State), a.config.Valid → InvAt a.config s → a.step e s = .next t →
    InvAt a.config t

/-- At every valid record the state after construction meets the invariant (10_state.md R37). -/
def Obligations.ConstructionMeetsTheInvariantAtEveryRecord : Prop :=
  ∀ a : Assembly, a.config.Valid → InvAt a.config a.initial
end

