-- ==== Sys2Proof/Laws/Bits.lean ====
section
/-! SUPPORT. Bits of the words the operations build: single bits, replaced bits, the combine policies, the status bits of
`MCR`, the deposited control word. -/

namespace Sys2Proof

/-! ### What a valid record says of the `MCR` positions -/

/-- A valid record's seven `MCR` positions, pairwise distinct and inside the word. -/
theorem Config.Valid.mcr_positions {c : Config} (h : c.Valid) :
    (c.mdisBit ≠ c.frzBit ∧ c.mdisBit ≠ c.haltBit ∧ c.mdisBit ≠ c.notrdyBit ∧ c.mdisBit ≠ c.softrstBit ∧
      c.mdisBit ≠ c.frzackBit ∧ c.mdisBit ≠ c.lpmackBit) ∧
    (c.frzBit ≠ c.haltBit ∧ c.frzBit ≠ c.notrdyBit ∧ c.frzBit ≠ c.softrstBit ∧ c.frzBit ≠ c.frzackBit ∧
      c.frzBit ≠ c.lpmackBit) ∧
    (c.haltBit ≠ c.notrdyBit ∧ c.haltBit ≠ c.softrstBit ∧ c.haltBit ≠ c.frzackBit ∧ c.haltBit ≠ c.lpmackBit) ∧
    (c.notrdyBit ≠ c.softrstBit ∧ c.notrdyBit ≠ c.frzackBit ∧ c.notrdyBit ≠ c.lpmackBit) ∧
    (c.softrstBit ≠ c.frzackBit ∧ c.softrstBit ≠ c.lpmackBit) ∧ c.frzackBit ≠ c.lpmackBit := by
  have := h.mcrBits_distinct
  simp only [Config.mcrBits, List.nodup_cons, List.mem_cons, List.not_mem_nil, or_false, not_or] at this
  obtain ⟨⟨a1, a2, a3, a4, a5, a6⟩, ⟨b1, b2, b3, b4, b5⟩, ⟨c1, c2, c3, c4⟩, ⟨d1, d2, d3⟩, ⟨e1, e2⟩, f, -⟩ := this
  exact ⟨⟨a1, a2, a3, a4, a5, a6⟩, ⟨b1, b2, b3, b4, b5⟩, ⟨c1, c2, c3, c4⟩, ⟨d1, d2, d3⟩, ⟨e1, e2⟩, f⟩

theorem Config.Valid.mcr_inside {c : Config} (h : c.Valid) :
    c.mdisBit < 32 ∧ c.frzBit < 32 ∧ c.haltBit < 32 ∧ c.notrdyBit < 32 ∧ c.softrstBit < 32 ∧ c.frzackBit < 32 ∧
      c.lpmackBit < 32 := by
  have := h.mcrBits_inside
  simpa [Config.mcrBits] using this

end Sys2Proof

namespace Sys2Proof.Machine

/-! ### Single bits -/

@[simp] theorem bit_getLsbD (i j : Nat) : (bit i).getLsbD j = (decide (j < 32) && decide (j = i)) := by
  simp only [bit, BitVec.getLsbD_shiftLeft, BitVec.getLsbD_one]
  by_cases h : j < 32 <;> by_cases h2 : j = i <;> simp_all
  omega

/-- A replaced bit reads as replaced, every other bit as before. -/
theorem setBit_getLsbD (w : Word) (i j : Nat) (b : Bool) :
    (setBit w i b).getLsbD j = if j = i then (decide (j < 32) && b) else w.getLsbD j := by
  have hw : ¬ j < 32 → w.getLsbD j = false := fun h => BitVec.getLsbD_of_ge w j (by omega)
  unfold setBit
  cases b <;> by_cases h : j < 32 <;> by_cases h2 : j = i <;> simp_all [-BitVec.getLsbD_eq_getElem]

theorem setBit_getLsbD_same (w : Word) (i : Nat) (b : Bool) (h : i < 32) : (setBit w i b).getLsbD i = b := by
  simp [setBit_getLsbD, h, -BitVec.getLsbD_eq_getElem]

theorem setBit_getLsbD_other (w : Word) (i j : Nat) (b : Bool) (h : j ≠ i) : (setBit w i b).getLsbD j = w.getLsbD j := by
  simp [setBit_getLsbD, h]

/-! ### Combine policies (00_scope.md R16) -/

theorem combine_overwrite_getLsbD (M o V : Word) (b : Nat) (hb : b < 32) :
    (combine .overwrite M o V).getLsbD b = if M.getLsbD b then V.getLsbD b else o.getLsbD b := by
  cases hM : M.getLsbD b <;> simp [combine, hb, hM, -BitVec.getLsbD_eq_getElem]

theorem combine_w1c_getLsbD (M o V : Word) (b : Nat) (hb : b < 32) :
    (combine .w1c M o V).getLsbD b = (o.getLsbD b && !(V.getLsbD b && M.getLsbD b)) := by
  simp [combine, hb, -BitVec.getLsbD_eq_getElem]

/-- Under a full mask an overwrite is the written word. -/
@[simp] theorem combine_overwrite_full (o V : Word) : combine .overwrite 0xFFFFFFFF#32 o V = V := by
  apply BitVec.eq_of_getLsbD_eq
  intro b hb
  have h : (0xFFFFFFFF#32 : Word).getLsbD b = true := by
    simp only [show (0xFFFFFFFF#32 : Word) = BitVec.allOnes 32 from rfl, BitVec.getLsbD_allOnes, hb, decide_true]
  rw [combine_overwrite_getLsbD _ _ _ _ hb, h]; simp

/-- Under a full mask write-1-to-clear is "and not". -/
@[simp] theorem combine_w1c_full (o V : Word) : combine .w1c 0xFFFFFFFF#32 o V = o &&& ~~~V := by
  rw [show (0xFFFFFFFF#32 : Word) = BitVec.allOnes 32 from rfl, combine, BitVec.and_allOnes]

/-! ### The module-configuration register -/

/-- The recomputation of the status bits, bit by bit (40_register_bank.md R121). -/
theorem withStatus_getLsbD (c : Config) (m : Word) (b : Nat) (hb : b < 32) :
    (withStatus c m).getLsbD b =
      if b = c.notrdyBit then (m.getLsbD c.mdisBit || freezeRequested c m)
      else if b = c.frzackBit then freezeRequested c m
      else if b = c.lpmackBit then m.getLsbD c.mdisBit
      else m.getLsbD b := by
  simp [withStatus, setBit_getLsbD, hb, -BitVec.getLsbD_eq_getElem]

/-- `PRESERVE`, bit by bit (10_state.md R25). -/
theorem preserveMask_getLsbD (c : Config) (b : Nat) (hb : b < 32) :
    (preserveMask c).getLsbD b = decide (b ∈ [c.mdisBit, c.notrdyBit, c.softrstBit, c.frzackBit, c.lpmackBit]) := by
  simp [preserveMask, hb, Bool.or_assoc, -BitVec.getLsbD_eq_getElem]

/-- The reload of a soft reset, bit by bit (40_register_bank.md R122). -/
theorem reloadedMcr_getLsbD (c : Config) (m : Word) (b : Nat) (hb : b < 32) :
    (reloadedMcr c m).getLsbD b =
      if b = c.softrstBit then false
      else if b ∈ [c.mdisBit, c.notrdyBit, c.softrstBit, c.frzackBit, c.lpmackBit] then m.getLsbD b
      else (c.decl .mcr).reset.getLsbD b := by
  unfold reloadedMcr
  rw [setBit_getLsbD]
  by_cases h : b = c.softrstBit
  · simp [h]
  · simp only [h, if_false, BitVec.getLsbD_or, BitVec.getLsbD_and, BitVec.getLsbD_not, hb, decide_true, Bool.true_and,
      preserveMask_getLsbD c b hb]
    split <;> rename_i h2 <;> simp [h2]

end Sys2Proof.Machine
end

