-- ==== Sys2Proof/Laws/State.lean ====
section
/-! SUPPORT. The small lemmas of the state record: a register read after a register write, one lemma per field of the
register file, and what each update of a state leaves alone. -/

namespace Sys2Proof.Machine

/-! ### The register file by name -/

@[simp] theorem Regs.get_mcr (x : Regs) : x.get .mcr = x.mcr := rfl

@[simp] theorem Regs.get_ctrl1 (x : Regs) : x.get .ctrl1 = x.ctrl1 := rfl

@[simp] theorem Regs.get_rxmgmask (x : Regs) : x.get .rxmgmask = x.rxmgmask := rfl

@[simp] theorem Regs.get_rx14mask (x : Regs) : x.get .rx14mask = x.rx14mask := rfl

@[simp] theorem Regs.get_rx15mask (x : Regs) : x.get .rx15mask = x.rx15mask := rfl

@[simp] theorem Regs.get_esr1 (x : Regs) : x.get .esr1 = x.esr1 := rfl

@[simp] theorem Regs.get_imask2 (x : Regs) : x.get .imask2 = x.imask2 := rfl

@[simp] theorem Regs.get_imask1 (x : Regs) : x.get .imask1 = x.imask1 := rfl

@[simp] theorem Regs.get_iflag2 (x : Regs) : x.get .iflag2 = x.iflag2 := rfl

@[simp] theorem Regs.get_iflag1 (x : Regs) : x.get .iflag1 = x.iflag1 := rfl

@[simp] theorem Regs.get_ctrl2 (x : Regs) : x.get .ctrl2 = x.ctrl2 := rfl

@[simp] theorem Regs.get_rxfgmask (x : Regs) : x.get .rxfgmask = x.rxfgmask := rfl

@[simp] theorem Regs.get_fdctrl (x : Regs) : x.get .fdctrl = x.fdctrl := rfl

@[simp] theorem Regs.get_fdcbt (x : Regs) : x.get .fdcbt = x.fdcbt := rfl

@[simp] theorem Regs.get_fdcrc (x : Regs) : x.get .fdcrc = x.fdcrc := rfl

@[simp] theorem Regs.get_erfcr (x : Regs) : x.get .erfcr = x.erfcr := rfl

@[simp] theorem Regs.get_erfier (x : Regs) : x.get .erfier = x.erfier := rfl

@[simp] theorem Regs.get_erfsr (x : Regs) : x.get .erfsr = x.erfsr := rfl

@[simp] theorem Regs.set_mcr (x : Regs) (v : Word) : x.set .mcr v = { x with mcr := v } := rfl

@[simp] theorem Regs.set_ctrl1 (x : Regs) (v : Word) : x.set .ctrl1 v = { x with ctrl1 := v } := rfl

@[simp] theorem Regs.set_rxmgmask (x : Regs) (v : Word) : x.set .rxmgmask v = { x with rxmgmask := v } := rfl

@[simp] theorem Regs.set_rx14mask (x : Regs) (v : Word) : x.set .rx14mask v = { x with rx14mask := v } := rfl

@[simp] theorem Regs.set_rx15mask (x : Regs) (v : Word) : x.set .rx15mask v = { x with rx15mask := v } := rfl

@[simp] theorem Regs.set_esr1 (x : Regs) (v : Word) : x.set .esr1 v = { x with esr1 := v } := rfl

@[simp] theorem Regs.set_imask2 (x : Regs) (v : Word) : x.set .imask2 v = { x with imask2 := v } := rfl

@[simp] theorem Regs.set_imask1 (x : Regs) (v : Word) : x.set .imask1 v = { x with imask1 := v } := rfl

@[simp] theorem Regs.set_iflag2 (x : Regs) (v : Word) : x.set .iflag2 v = { x with iflag2 := v } := rfl

@[simp] theorem Regs.set_iflag1 (x : Regs) (v : Word) : x.set .iflag1 v = { x with iflag1 := v } := rfl

@[simp] theorem Regs.set_ctrl2 (x : Regs) (v : Word) : x.set .ctrl2 v = { x with ctrl2 := v } := rfl

@[simp] theorem Regs.set_rxfgmask (x : Regs) (v : Word) : x.set .rxfgmask v = { x with rxfgmask := v } := rfl

@[simp] theorem Regs.set_fdctrl (x : Regs) (v : Word) : x.set .fdctrl v = { x with fdctrl := v } := rfl

@[simp] theorem Regs.set_fdcbt (x : Regs) (v : Word) : x.set .fdcbt v = { x with fdcbt := v } := rfl

@[simp] theorem Regs.set_fdcrc (x : Regs) (v : Word) : x.set .fdcrc v = { x with fdcrc := v } := rfl

@[simp] theorem Regs.set_erfcr (x : Regs) (v : Word) : x.set .erfcr v = { x with erfcr := v } := rfl

@[simp] theorem Regs.set_erfier (x : Regs) (v : Word) : x.set .erfier v = { x with erfier := v } := rfl

@[simp] theorem Regs.set_erfsr (x : Regs) (v : Word) : x.set .erfsr v = { x with erfsr := v } := rfl

/-- A register reads as it was last written. -/
@[simp] theorem Regs.get_set_same (x : Regs) (r : Reg) (v : Word) : (x.set r v).get r = v := by cases r <;> rfl

/-- A write of one register leaves every other alone. -/
theorem Regs.get_set_other (x : Regs) (r q : Reg) (v : Word) (h : q ≠ r) : (x.set r v).get q = x.get q := by
  cases r <;> cases q <;> first | rfl | exact absurd rfl h

/-- Writing what a register holds changes nothing. -/
@[simp] theorem Regs.set_get (x : Regs) (r : Reg) : x.set r (x.get r) = x := by cases r <;> rfl

/-- The later of two writes of one register stands. -/
@[simp] theorem Regs.set_set (x : Regs) (r : Reg) (v w : Word) : (x.set r v).set r w = x.set r w := by cases r <;> rfl

/-- Two register files that agree on every register are one. -/
theorem Regs.ext_get {x y : Regs} (h : ∀ r, x.get r = y.get r) : x = y := by
  cases x; cases y
  simp only [Regs.mk.injEq]
  exact ⟨h .mcr, h .ctrl1, h .rxmgmask, h .rx14mask, h .rx15mask, h .esr1, h .imask2, h .imask1, h .iflag2, h .iflag1,
    h .ctrl2, h .rxfgmask, h .fdctrl, h .fdcbt, h .fdcrc, h .erfcr, h .erfier, h .erfsr⟩

/-- The reset register file, register by register (10_state.md R37). -/
@[simp] theorem Regs.reset_get (c : Config) (r : Reg) : (Regs.reset c).get r = (c.decl r).reset := by cases r <;> rfl

/-! ### Updates of a state -/

@[simp] theorem setReg_regs (r : Reg) (v : Word) (s : State) : (setReg r v s).regs = s.regs.set r v := rfl

@[simp] theorem setReg_mem (r : Reg) (v : Word) (s : State) : (setReg r v s).mem = s.mem := rfl

@[simp] theorem setReg_inbox (r : Reg) (v : Word) (s : State) : (setReg r v s).inbox = s.inbox := rfl

@[simp] theorem setReg_sent (r : Reg) (v : Word) (s : State) : (setReg r v s).sent = s.sent := rfl

@[simp] theorem setReg_reply (r : Reg) (v : Word) (s : State) : (setReg r v s).reply = s.reply := rfl

@[simp] theorem storeWord_regs (i : Nat) (v : Word) (s : State) : (storeWord i v s).regs = s.regs := rfl

@[simp] theorem storeWord_mem (i : Nat) (v : Word) (s : State) : (storeWord i v s).mem = s.mem.writeWord i v := rfl

@[simp] theorem storeWord_inbox (i : Nat) (v : Word) (s : State) : (storeWord i v s).inbox = s.inbox := rfl

@[simp] theorem storeWord_sent (i : Nat) (v : Word) (s : State) : (storeWord i v s).sent = s.sent := rfl

@[simp] theorem storeWord_reply (i : Nat) (v : Word) (s : State) : (storeWord i v s).reply = s.reply := rfl

@[simp] theorem send_regs (f : Frame) (s : State) : (send f s).regs = s.regs := rfl

@[simp] theorem send_mem (f : Frame) (s : State) : (send f s).mem = s.mem := rfl

@[simp] theorem send_inbox (f : Frame) (s : State) : (send f s).inbox = s.inbox := rfl

@[simp] theorem send_sent (f : Frame) (s : State) : (send f s).sent = s.sent ++ [f] := rfl

@[simp] theorem send_reply (f : Frame) (s : State) : (send f s).reply = s.reply := rfl

@[simp] theorem replyWord_regs (v : Word) (s : State) : (replyWord v s).regs = s.regs := rfl

@[simp] theorem replyWord_mem (v : Word) (s : State) : (replyWord v s).mem = s.mem := rfl

@[simp] theorem replyWord_inbox (v : Word) (s : State) : (replyWord v s).inbox = s.inbox := rfl

@[simp] theorem replyWord_sent (v : Word) (s : State) : (replyWord v s).sent = s.sent := rfl

@[simp] theorem replyWord_reply (v : Word) (s : State) : (replyWord v s).reply = .word v := rfl

@[simp] theorem replyBool_regs (b : Bool) (s : State) : (replyBool b s).regs = s.regs := rfl

@[simp] theorem replyBool_mem (b : Bool) (s : State) : (replyBool b s).mem = s.mem := rfl

@[simp] theorem replyBool_inbox (b : Bool) (s : State) : (replyBool b s).inbox = s.inbox := rfl

@[simp] theorem replyBool_sent (b : Bool) (s : State) : (replyBool b s).sent = s.sent := rfl

@[simp] theorem replyBool_reply (b : Bool) (s : State) : (replyBool b s).reply = .bool b := rfl

@[simp] theorem replyNone_regs (s : State) : (replyNone s).regs = s.regs := rfl

@[simp] theorem replyNone_mem (s : State) : (replyNone s).mem = s.mem := rfl

@[simp] theorem replyNone_inbox (s : State) : (replyNone s).inbox = s.inbox := rfl

@[simp] theorem replyNone_sent (s : State) : (replyNone s).sent = s.sent := rfl

@[simp] theorem replyNone_reply (s : State) : (replyNone s).reply = .none := rfl

@[simp] theorem hardReset_regs (c : Config) (s : State) : (hardReset c s).regs = Regs.reset c := rfl

@[simp] theorem hardReset_mem (c : Config) (s : State) : (hardReset c s).mem = [] := rfl

@[simp] theorem hardReset_inbox (c : Config) (s : State) : (hardReset c s).inbox = s.inbox := rfl

@[simp] theorem hardReset_sent (c : Config) (s : State) : (hardReset c s).sent = s.sent := rfl

@[simp] theorem hardReset_reply (c : Config) (s : State) : (hardReset c s).reply = s.reply := rfl

@[simp] theorem setGroupFlag_regs (g b : Nat) (s : State) : (setGroupFlag g b s).regs = s.regs.set (groupFlag g) (s.regs.get (groupFlag g) ||| bit b) := rfl

@[simp] theorem setGroupFlag_mem (g b : Nat) (s : State) : (setGroupFlag g b s).mem = s.mem := rfl

@[simp] theorem setGroupFlag_inbox (g b : Nat) (s : State) : (setGroupFlag g b s).inbox = s.inbox := rfl

@[simp] theorem setGroupFlag_sent (g b : Nat) (s : State) : (setGroupFlag g b s).sent = s.sent := rfl

@[simp] theorem setGroupFlag_reply (g b : Nat) (s : State) : (setGroupFlag g b s).reply = s.reply := rfl

@[simp] theorem softReset_mem (c : Config) (s : State) : (softReset c s).mem = s.mem := rfl

@[simp] theorem softReset_inbox (c : Config) (s : State) : (softReset c s).inbox = s.inbox := rfl

@[simp] theorem softReset_sent (c : Config) (s : State) : (softReset c s).sent = s.sent := rfl

@[simp] theorem softReset_reply (c : Config) (s : State) : (softReset c s).reply = s.reply := rfl

/-- What a soft reset leaves in each register (40_register_bank.md R122). -/
theorem softReset_regs (c : Config) (s : State) : (softReset c s).regs =
    { s.regs with mcr := reloadedMcr c s.regs.mcr, esr1 := (c.decl .esr1).reset, imask1 := (c.decl .imask1).reset, imask2 := (c.decl .imask2).reset } := rfl

/-- Setting a buffer's flag touches the registers only. -/
@[simp] theorem setBufferFlag_mem (n : Nat) (s : State) : (setBufferFlag n s).mem = s.mem := by
  unfold setBufferFlag; split <;> rfl

@[simp] theorem setBufferFlag_inbox (n : Nat) (s : State) : (setBufferFlag n s).inbox = s.inbox := by
  unfold setBufferFlag; split <;> rfl

@[simp] theorem setBufferFlag_sent (n : Nat) (s : State) : (setBufferFlag n s).sent = s.sent := by
  unfold setBufferFlag; split <;> rfl

@[simp] theorem setBufferFlag_reply (n : Nat) (s : State) : (setBufferFlag n s).reply = s.reply := by
  unfold setBufferFlag; split <;> rfl

/-- `mb` reads the store only. -/
@[simp] theorem mb_eq (s : State) (i : Nat) : mb s i = s.mem.readWord i := rfl

end Sys2Proof.Machine
end

