-- ==== Sys2Proof/Laws/Memory.lean ====
section
/-! SUPPORT. The laws of the message-buffer store: a byte or word read after a write, the canonical form kept by every
memory operation, and the packing of words into bytes. -/

namespace Sys2Proof.Machine

/-! ### Bytes of a word -/

/-- The bits of a packed word, byte by byte. -/
theorem packBytes_getLsbD (b0 b1 b2 b3 : Byte) (i : Nat) :
    (packBytes b0 b1 b2 b3).getLsbD i =
      if i < 8 then b0.getLsbD i else if i < 16 then b1.getLsbD (i - 8)
      else if i < 24 then b2.getLsbD (i - 16) else b3.getLsbD (i - 24) := by
  show (b3 ++ b2 ++ b1 ++ b0).getLsbD i = _
  simp only [BitVec.getLsbD_append]
  by_cases h0 : i < 8
  · simp [h0]
  · by_cases h1 : i < 16
    · simp [h0, h1, show i - 8 < 8 by omega]
    · by_cases h2 : i < 24
      · simp [h0, h1, h2, show ¬ (i - 8 < 8) by omega, show i - 8 - 8 = i - 16 by omega, show i - 16 < 8 by omega]
      · simp [h0, h1, h2, show ¬ (i - 8 < 8) by omega, show ¬ (i - 8 - 8 < 8) by omega,
          show i - 8 - 8 - 8 = i - 24 by omega]

/-- The bits of one byte of a word. -/
theorem wordByte_getLsbD (v : Word) (j i : Nat) : (wordByte v j).getLsbD i = (decide (i < 8) && v.getLsbD (8 * j + i)) := by
  simp [wordByte, BitVec.getLsbD_extractLsb']

/-- A word is the packing of its four bytes (20_memory.md R61). -/
@[simp] theorem packBytes_wordByte (v : Word) :
    packBytes (wordByte v 0) (wordByte v 1) (wordByte v 2) (wordByte v 3) = v := by
  apply BitVec.eq_of_getLsbD_eq
  intro i hi
  simp only [packBytes_getLsbD, wordByte_getLsbD]
  by_cases h0 : i < 8
  · simp [h0]
  · by_cases h1 : i < 16
    · simp [h0, h1, show i - 8 < 8 by omega, show 8 + (i - 8) = i by omega]
    · by_cases h2 : i < 24
      · simp [h0, h1, h2, show i - 16 < 8 by omega, show 16 + (i - 16) = i by omega]
      · simp [h0, h1, h2, show i - 24 < 8 by omega, show 24 + (i - 24) = i by omega]

/-- A byte of a packed word (20_memory.md R61). -/
theorem wordByte_packBytes (b0 b1 b2 b3 : Byte) :
    wordByte (packBytes b0 b1 b2 b3) 0 = b0 ∧ wordByte (packBytes b0 b1 b2 b3) 1 = b1 ∧
      wordByte (packBytes b0 b1 b2 b3) 2 = b2 ∧ wordByte (packBytes b0 b1 b2 b3) 3 = b3 := by
  refine ⟨?_, ?_, ?_, ?_⟩ <;> apply BitVec.eq_of_getLsbD_eq <;> intro i hi <;>
    simp only [wordByte_getLsbD, packBytes_getLsbD, hi, decide_true, Bool.true_and, Nat.mul_zero, Nat.zero_add]
  · simp
  · simp [show ¬ (8 + i < 8) by omega, show 8 + i < 16 by omega]
  · simp [show ¬ (16 + i < 8) by omega, show ¬ (16 + i < 16) by omega, show 16 + i < 24 by omega]
  · simp [show ¬ (24 + i < 8) by omega, show ¬ (24 + i < 16) by omega, show ¬ (24 + i < 24) by omega]

/-! ### Reading after writing, by bytes -/

@[simp] theorem Memory.readByte_nil (a : Nat) : Memory.readByte [] a = unlistedByte := rfl

/-- Below every listed address a store reads as unlisted. -/
theorem Memory.readByte_below (m : Memory) (a : Nat) (h : ∀ x ∈ m, a < x.1) : m.readByte a = unlistedByte := by
  induction m with
  | nil => rfl
  | cons x m ih =>
    obtain ⟨k, b⟩ := x
    have hk : a < k := h (k, b) (by simp)
    simp only [Memory.readByte, show k ≠ a by omega, if_false]
    exact ih fun y hy => h y (by simp [hy])

/-- Reading past a placed cell. -/
theorem Memory.readByte_place_other (m : Memory) (a k : Nat) (b : Byte) (h : a ≠ k) :
    (Memory.place k b m).readByte a = m.readByte a := by
  unfold Memory.place
  split
  · rfl
  · simp [Memory.readByte, Ne.symm h]

/-- Reading a placed cell over a store that lists nothing at or below it. -/
theorem Memory.readByte_place_same (m : Memory) (a : Nat) (b : Byte) (h : ∀ x ∈ m, a < x.1) :
    (Memory.place a b m).readByte a = b := by
  unfold Memory.place
  split
  · rename_i hb; rw [hb]; exact m.readByte_below a h
  · simp [Memory.readByte]

/-- A write leaves every other byte alone; no assumption on the store. -/
theorem Memory.readByte_writeByte_other (m : Memory) (k a : Nat) (b : Byte) (h : a ≠ k) :
    (m.writeByte k b).readByte a = m.readByte a := by
  induction m with
  | nil => simp only [Memory.writeByte]; exact Memory.readByte_place_other [] a k b h
  | cons x m ih =>
    obtain ⟨j, c⟩ := x
    simp only [Memory.writeByte]
    split
    · exact Memory.readByte_place_other _ a k b h
    · split
      · rename_i hj; subst hj
        rw [Memory.readByte_place_other m a k b h]
        simp [Memory.readByte, Ne.symm h]
      · simp only [Memory.readByte, ih]

/-- A written byte reads back, in a store in canonical form. -/
theorem Memory.readByte_writeByte_same (m : Memory) (a : Nat) (b : Byte) (hm : m.Pairwise fun x y => x.1 < y.1) :
    (m.writeByte a b).readByte a = b := by
  induction m with
  | nil => exact Memory.readByte_place_same [] a b (by simp)
  | cons x m ih =>
    obtain ⟨j, c⟩ := x
    rw [List.pairwise_cons] at hm
    simp only [Memory.writeByte]
    split
    · rename_i h
      refine Memory.readByte_place_same _ a b fun y hy => ?_
      rcases List.mem_cons.mp hy with rfl | hy
      · exact h
      · exact Nat.lt_trans h (hm.1 y hy)
    · split
      · rename_i h; subst h
        exact Memory.readByte_place_same m a b fun y hy => hm.1 y hy
      · rename_i h1 h2
        simp only [Memory.readByte, show j ≠ a by omega, if_false]
        exact ih hm.2

/-! ### The canonical form -/

/-- Every address a write lists was listed before or is the written one. -/
theorem Memory.mem_writeByte (m : Memory) (a : Nat) (b : Byte) (x : Host.Cell) (hx : x ∈ m.writeByte a b) :
    x ∈ m ∨ (x = (a, b) ∧ b ≠ unlistedByte) := by
  have hplace : ∀ m' : Memory, x ∈ Memory.place a b m' → x ∈ m' ∨ (x = (a, b) ∧ b ≠ unlistedByte) := by
    intro m' h
    unfold Memory.place at h
    split at h
    · exact .inl h
    · rcases List.mem_cons.mp h with h | h
      · exact .inr ⟨h, ‹_›⟩
      · exact .inl h
  induction m with
  | nil => exact hplace [] hx
  | cons y m ih =>
    obtain ⟨k, c⟩ := y
    simp only [Memory.writeByte] at hx
    split at hx
    · exact hplace _ hx
    · split at hx
      · rcases hplace _ hx with h | h
        · exact .inl (List.mem_cons_of_mem _ h)
        · exact .inr h
      · rcases List.mem_cons.mp hx with h | h
        · exact .inl (by simp [h])
        · rcases ih h with h | h
          · exact .inl (List.mem_cons_of_mem _ h)
          · exact .inr h

/-- A byte write keeps the canonical form. -/
theorem Memory.wf_writeByte (m : Memory) (a : Nat) (b : Byte) (ha : a < storeBytes) (hm : m.wf) :
    (m.writeByte a b).wf := by
  obtain ⟨hs, hc⟩ := hm
  refine ⟨?_, fun x hx => ?_⟩
  · have hplace : ∀ m' : Memory, (∀ y ∈ m', a < y.1) → m'.Pairwise (fun x y => x.1 < y.1) →
        (Memory.place a b m').Pairwise (fun x y => x.1 < y.1) := by
      intro m' h h'
      unfold Memory.place
      split
      · exact h'
      · exact List.pairwise_cons.mpr ⟨h, h'⟩
    clear hc
    induction m with
    | nil => exact hplace [] (by simp) (by simp)
    | cons x m ih =>
      obtain ⟨k, c⟩ := x
      have hcons := List.pairwise_cons.mp hs
      simp only [Memory.writeByte]
      split
      · rename_i h
        refine hplace _ (fun y hy => ?_) hs
        rcases List.mem_cons.mp hy with rfl | hy
        · exact h
        · exact Nat.lt_trans h (hcons.1 y hy)
      · split
        · rename_i h; subst h
          exact hplace m hcons.1 hcons.2
        · rename_i h1 h2
          refine List.pairwise_cons.mpr ⟨fun y hy => ?_, ih hcons.2⟩
          rcases Memory.mem_writeByte m a b y hy with h | ⟨rfl, -⟩
          · exact hcons.1 y h
          · show k < a; omega
  · rcases Memory.mem_writeByte m a b x hx with h | ⟨rfl, hb⟩
    · exact hc x h
    · exact ⟨ha, hb⟩

/-- A word write keeps the canonical form. -/
theorem Memory.wf_writeWord (m : Memory) (i : Nat) (v : Word) (hi : i < 512) (hm : m.wf) : (m.writeWord i v).wf := by
  have h : storeBytes = 2048 := rfl
  unfold Memory.writeWord
  exact Memory.wf_writeByte _ _ _ (by omega) (Memory.wf_writeByte _ _ _ (by omega)
    (Memory.wf_writeByte _ _ _ (by omega) (Memory.wf_writeByte _ _ _ (by omega) hm)))

/-- The empty store is in canonical form. -/
theorem Memory.wf_nil : Memory.wf [] := ⟨List.Pairwise.nil, by simp⟩

/-! ### Words -/

/-- A word write leaves every byte outside its four alone. -/
theorem Memory.readByte_writeWord_other (m : Memory) (i a : Nat) (v : Word) (h : a < 4 * i ∨ 4 * i + 4 ≤ a) :
    (m.writeWord i v).readByte a = m.readByte a := by
  unfold Memory.writeWord
  repeat rw [Memory.readByte_writeByte_other _ _ _ _ (by omega)]

/-- A word write stores byte `j` of the word at address `4i + j`. -/
theorem Memory.readByte_writeWord_same (m : Memory) (i : Nat) (v : Word) (hi : i < 512) (hm : m.wf) :
    (m.writeWord i v).readByte (4 * i) = wordByte v 0 ∧ (m.writeWord i v).readByte (4 * i + 1) = wordByte v 1 ∧
      (m.writeWord i v).readByte (4 * i + 2) = wordByte v 2 ∧ (m.writeWord i v).readByte (4 * i + 3) = wordByte v 3 := by
  have hb : storeBytes = 2048 := rfl
  have h0 := Memory.wf_writeByte m (4 * i) (wordByte v 0) (by omega) hm
  have h1 := Memory.wf_writeByte _ (4 * i + 1) (wordByte v 1) (by omega) h0
  have h2 := Memory.wf_writeByte _ (4 * i + 2) (wordByte v 2) (by omega) h1
  unfold Memory.writeWord
  refine ⟨?_, ?_, ?_, ?_⟩
  · rw [Memory.readByte_writeByte_other _ _ _ _ (by omega), Memory.readByte_writeByte_other _ _ _ _ (by omega),
      Memory.readByte_writeByte_other _ _ _ _ (by omega), Memory.readByte_writeByte_same _ _ _ hm.1]
  · rw [Memory.readByte_writeByte_other _ _ _ _ (by omega), Memory.readByte_writeByte_other _ _ _ _ (by omega),
      Memory.readByte_writeByte_same _ _ _ h0.1]
  · rw [Memory.readByte_writeByte_other _ _ _ _ (by omega), Memory.readByte_writeByte_same _ _ _ h1.1]
  · rw [Memory.readByte_writeByte_same _ _ _ h2.1]

/-- A written word reads back. -/
theorem Memory.readWord_writeWord_same (m : Memory) (i : Nat) (v : Word) (hi : i < 512) (hm : m.wf) :
    (m.writeWord i v).readWord i = v := by
  obtain ⟨h0, h1, h2, h3⟩ := Memory.readByte_writeWord_same m i v hi hm
  rw [Memory.readWord, h0, h1, h2, h3, packBytes_wordByte]

/-- A word write leaves every other word alone. -/
theorem Memory.readWord_writeWord_other (m : Memory) (i j : Nat) (v : Word) (h : j ≠ i) :
    (m.writeWord i v).readWord j = m.readWord j := by
  unfold Memory.readWord
  repeat rw [Memory.readByte_writeWord_other _ _ _ _ (by omega)]

/-- Every word of an empty store is zero. -/
@[simp] theorem Memory.readWord_nil (i : Nat) : Memory.readWord [] i = 0#32 := by
  simp only [Memory.readWord, Memory.readByte_nil]; decide

end Sys2Proof.Machine
end

