-- ==== Sys2Proof/Laws/Ops.lean ====
section
/-! SUPPORT. One lemma per shared operation that says once what it can do, and one for `exec`: the outcomes of an
operation that completes. -/

namespace Sys2Proof.Machine

/-! ### The default record -/

@[simp] theorem default_mbBase : Config.default.mbBase = 0x080 := rfl
@[simp] theorem default_mdisBit : Config.default.mdisBit = 31 := rfl
@[simp] theorem default_frzBit : Config.default.frzBit = 30 := rfl
@[simp] theorem default_haltBit : Config.default.haltBit = 28 := rfl
@[simp] theorem default_notrdyBit : Config.default.notrdyBit = 27 := rfl
@[simp] theorem default_softrstBit : Config.default.softrstBit = 25 := rfl
@[simp] theorem default_frzackBit : Config.default.frzackBit = 24 := rfl
@[simp] theorem default_lpmackBit : Config.default.lpmackBit = 20 := rfl
@[simp] theorem default_codeHi : Config.default.codeHi = 27 := rfl
@[simp] theorem default_codeLo : Config.default.codeLo = 24 := rfl
@[simp] theorem default_dlcHi : Config.default.dlcHi = 19 := rfl
@[simp] theorem default_dlcLo : Config.default.dlcLo = 16 := rfl
@[simp] theorem default_ideBit : Config.default.ideBit = 21 := rfl
@[simp] theorem default_codeTxData : Config.default.codeTxData = 0xC := rfl
@[simp] theorem default_rxSlot : Config.default.rxSlot = 0 := rfl
@[simp] theorem default_rxFlagGroup : Config.default.rxFlagGroup = 1 := rfl
@[simp] theorem default_rxFlagBit : Config.default.rxFlagBit = 0 := rfl

/-- Every register but `MCR` is fully writable (10_state.md R24). -/
theorem default_wmask (r : Reg) (h : r ≠ .mcr) : (Config.default.decl r).wmask = 0xFFFFFFFF#32 := by
  cases r <;> first | rfl | exact absurd rfl h

/-- Every register but `MCR` resets to zero (10_state.md R24). -/
theorem default_reset (r : Reg) (h : r ≠ .mcr) : (Config.default.decl r).reset = 0#32 := by
  cases r <;> first | rfl | exact absurd rfl h

/-- The policies of the registers other than the three write-1-to-clear ones (10_state.md R24). -/
theorem default_policy (r : Reg) (h : r ≠ .esr1 ∧ r ≠ .iflag1 ∧ r ≠ .iflag2) :
    (Config.default.decl r).policy = .overwrite := by
  cases r <;> first | rfl | exact absurd rfl h.1 | exact absurd rfl h.2.1 | exact absurd rfl h.2.2

/-! ### Register writes -/

/-- Only `MCR` has a hook that stores (40_register_bank.md R144). -/
theorem regWrite_of_ne_mcr (c : Config) (r : Reg) (V : Word) (s : State) (h : r ≠ .mcr) :
    regWrite c r V s = maskedStore c r V s := by
  cases r <;> first | rfl | exact absurd rfl h

/-- The `MCR` word a write stores before its hook. -/
def storedMcr (c : Config) (V o : Word) : Word := combine (c.decl .mcr).policy (c.decl .mcr).wmask o V

/-- What `WR.MCR` can do (40_register_bank.md R121): without a stored `SOFTRST` it recomputes the status bits of the
stored word; with it the soft reset comes first. -/
theorem regWrite_mcr (c : Config) (V : Word) (s : State) :
    regWrite c .mcr V s =
      if (storedMcr c V s.regs.mcr).getLsbD c.softrstBit then
        { s with regs := { s.regs with
            mcr := withStatus c (reloadedMcr c (storedMcr c V s.regs.mcr))
            esr1 := (c.decl .esr1).reset
            imask1 := (c.decl .imask1).reset
            imask2 := (c.decl .imask2).reset } }
      else { s with regs := { s.regs with mcr := withStatus c (storedMcr c V s.regs.mcr) } } := by
  show mcrHook c (maskedStore c .mcr V s) = _
  unfold mcrHook
  have h : (maskedStore c .mcr V s).regs.mcr = storedMcr c V s.regs.mcr := rfl
  rw [h]
  split <;> rfl

/-- A register write touches the registers only. -/
theorem regWrite_frame (c : Config) (r : Reg) (V : Word) (s : State) :
    (regWrite c r V s).mem = s.mem ∧ (regWrite c r V s).inbox = s.inbox ∧ (regWrite c r V s).sent = s.sent ∧
      (regWrite c r V s).reply = s.reply := by
  by_cases h : r = .mcr
  · subst h; rw [regWrite_mcr]; split <;> exact ⟨rfl, rfl, rfl, rfl⟩
  · rw [regWrite_of_ne_mcr c r V s h]; exact ⟨rfl, rfl, rfl, rfl⟩

/-- A write of a register other than `MCR` leaves every other register alone. -/
theorem regWrite_get_other (c : Config) (r q : Reg) (V : Word) (s : State) (h : r ≠ .mcr) (hq : q ≠ r) :
    (regWrite c r V s).regs.get q = s.regs.get q := by
  rw [regWrite_of_ne_mcr c r V s h]; exact Regs.get_set_other _ _ _ _ hq

/-- The register a write of a register other than `MCR` leaves. -/
theorem regWrite_get_same (c : Config) (r : Reg) (V : Word) (s : State) (h : r ≠ .mcr) :
    (regWrite c r V s).regs.get r = combine (c.decl r).policy (c.decl r).wmask (s.regs.get r) V := by
  rw [regWrite_of_ne_mcr c r V s h]; exact Regs.get_set_same _ _ _

/-- `WR.MCR` leaves every register outside the soft reset's subset alone. -/
theorem regWrite_mcr_get_other (c : Config) (q : Reg) (V : Word) (s : State) (h : q ≠ .mcr) (h1 : q ≠ .esr1)
    (h2 : q ≠ .imask1) (h3 : q ≠ .imask2) : (regWrite c .mcr V s).regs.get q = s.regs.get q := by
  rw [regWrite_mcr]
  split <;> cases q <;> first | rfl | exact absurd rfl h | exact absurd rfl h1 | exact absurd rfl h2 | exact absurd rfl h3

/-- In a valid record a written `SOFTRST` is stored, a written `MDIS`, `HALT`, `FRZ` too. -/
theorem storedMcr_control (c : Config) (hc : c.Valid) (V o : Word) :
    (storedMcr c V o).getLsbD c.softrstBit = V.getLsbD c.softrstBit ∧
      (storedMcr c V o).getLsbD c.mdisBit = V.getLsbD c.mdisBit ∧
      (storedMcr c V o).getLsbD c.haltBit = V.getLsbD c.haltBit ∧
      (storedMcr c V o).getLsbD c.frzBit = V.getLsbD c.frzBit := by
  obtain ⟨hm, hf, hh, hn, hs, hk, hl⟩ := hc.mcr_inside
  obtain ⟨wm, wf, wh, ws⟩ := hc.control_bits_writable
  unfold storedMcr
  rw [hc.control_overwrites.1]
  refine ⟨?_, ?_, ?_, ?_⟩ <;> rw [combine_overwrite_getLsbD _ _ _ _ (by assumption)] <;> simp only [*, if_true]

/-- The recomputation establishes the status equations on any word whose `SOFTRST` is 0 (10_state.md R27). -/
theorem withStatus_equations (c : Config) (hc : c.Valid) (m : Word) (h : m.getLsbD c.softrstBit = false) :
    StatusEquations c (withStatus c m) := by
  obtain ⟨⟨a1, a2, a3, a4, a5, a6⟩, ⟨b1, b2, b3, b4, b5⟩, ⟨c1, c2, c3, c4⟩, ⟨d1, d2, d3⟩, ⟨e1, e2⟩, f1⟩ := hc.mcr_positions
  obtain ⟨hm, hf, hh, hn, hs, hk, hl⟩ := hc.mcr_inside
  constructor <;> simp only [withStatus_getLsbD, *, freezeRequested, if_true, if_false] <;>
    simp [Ne.symm, *]

/-- `WR.MCR` leaves the status equations true, from any state (10_state.md R27). -/
theorem regWrite_mcr_equations (c : Config) (hc : c.Valid) (V : Word) (s : State) :
    StatusEquations c (regWrite c .mcr V s).regs.mcr := by
  obtain ⟨hm, hf, hh, hn, hs, hk, hl⟩ := hc.mcr_inside
  rw [regWrite_mcr]
  split
  · exact withStatus_equations c hc _ (by rw [reloadedMcr_getLsbD c _ _ hs]; simp)
  · rename_i h
    exact withStatus_equations c hc _ (by simpa using h)

/-! ### Buffer writes and reception -/

/-- Setting a buffer's flag leaves every register but the two flag registers alone. -/
theorem setBufferFlag_get_other (n : Nat) (s : State) (r : Reg) (h1 : r ≠ .iflag1) (h2 : r ≠ .iflag2) :
    (setBufferFlag n s).regs.get r = s.regs.get r := by
  unfold setBufferFlag
  split
  · simp only [setGroupFlag_regs]
    exact Regs.get_set_other _ _ _ _ (by unfold groupFlag; split <;> assumption)
  · rfl

/-- `MCR` is no flag register. -/
@[simp] theorem setGroupFlag_mcr (g b : Nat) (s : State) : (setGroupFlag g b s).regs.mcr = s.regs.mcr := by
  unfold setGroupFlag groupFlag
  split <;> rfl

/-- The two outcomes of `WR.MB` (41_message_buffer_store.md R171 to R173). -/
theorem mbWrite_cases (c : Config) (i : Nat) (V : Word) (s : State) :
    (txTrigger c i V s = false ∧ mbWrite c i V s = storeWord i V s) ∨
      (txTrigger c i V s = true ∧ mbWrite c i V s =
        setBufferFlag (i / 4) (send (bufferFrame c (i / 4) V (storeWord i V s)) (storeWord i V s))) := by
  have h : txTrigger c i V (storeWord i V s) = txTrigger c i V s := rfl
  unfold mbWrite
  simp only [h]
  cases txTrigger c i V s
  · exact .inl ⟨rfl, rfl⟩
  · exact .inr ⟨rfl, rfl⟩

/-- `WR.MB` leaves every register but the flag registers, the issued operations and the reply alone, and stores exactly
its word. -/
theorem mbWrite_frame (c : Config) (i : Nat) (V : Word) (s : State) :
    (mbWrite c i V s).mem = s.mem.writeWord i V ∧ (mbWrite c i V s).inbox = s.inbox ∧
      (mbWrite c i V s).reply = s.reply ∧
      ∀ r : Reg, r ≠ .iflag1 → r ≠ .iflag2 → (mbWrite c i V s).regs.get r = s.regs.get r := by
  rcases mbWrite_cases c i V s with ⟨-, h⟩ | ⟨-, h⟩ <;> rw [h]
  · exact ⟨rfl, rfl, rfl, fun _ _ _ => rfl⟩
  · refine ⟨by simp, by simp, by simp, fun r h1 h2 => ?_⟩
    rw [setBufferFlag_get_other _ _ _ h1 h2]; rfl

/-- A reception touches the four words of the slot and its flag register (42_bus_client_receive.md R192). -/
theorem deliver_frame (c : Config) (f : Frame) (s : State) :
    (deliver c f s).inbox = s.inbox ∧ (deliver c f s).sent = s.sent ∧ (deliver c f s).reply = s.reply ∧
      (deliver c f s).regs = s.regs.set (groupFlag c.rxFlagGroup) (s.regs.get (groupFlag c.rxFlagGroup) ||| bit c.rxFlagBit) ∧
      (deliver c f s).mem = (((s.mem.writeWord (4 * c.rxSlot) (rxCtrl c f)).writeWord (4 * c.rxSlot + 1) (rxId f)).writeWord
        (4 * c.rxSlot + 2) (rxData0 f)).writeWord (4 * c.rxSlot + 3) (rxData1 f) := by
  simp [deliver]

/-- An identifier fits its format (30_encoding.md R99). -/
theorem idField_lt (ext : Bool) (idw : Word) : idField ext idw < if ext then 2 ^ 29 else 2 ^ 11 := by
  cases ext
  · exact Nat.mod_lt _ (Nat.two_pow_pos 11)
  · exact Nat.mod_lt _ (Nat.two_pow_pos 29)

/-- Every frame the dispatcher assembles is legal (00_scope.md R13; 60_exceptions.md R222). -/
theorem txFrame_legal (c : Config) (C idw d0 d1 : Word) : (txFrame c C idw d0 d1).Legal := by
  refine ⟨Nat.min_le_right _ _, by simp [txFrame], ?_⟩
  exact idField_lt (C.getLsbD c.ideBit) idw

/-! ### What an operation that completes did -/

/-- The write operation of every register. -/
theorem exec_write (r : Reg) (V : Word) (s : State) :
    exec (Instr.write r V) s = .next (replyNone (regWrite Config.default r V s)) := by cases r <;> rfl

/-- The outcomes of an operation that answers a next state, one case per kind of operation, at any record. -/
theorem execAt_next_cases {c : Config} {i : Instr} {s t : State} (h : execAt c i s = .next t) :
    (∃ r : Reg, i = Instr.read r ∧ t = replyWord (s.regs.get r) s) ∨
    (∃ (r : Reg) (V : Word), i = Instr.write r V ∧ t = replyNone (regWrite c r V s)) ∨
    (∃ w : Fin 512, i = .rdMb w ∧ t = replyWord (mb s w.val) s) ∨
    (∃ (w : Fin 512) (V : Word), i = .wrMb w V ∧ t = replyNone (mbWrite c w.val V s)) ∨
    (∃ off : Offset, i = .rdUndecl off ∧ t = replyWord 0#32 s) ∨
    (∃ (off : Offset) (V : Word), i = .wrUndecl off V ∧ t = replyNone s) ∨
    (i = .busAccept ∧ t = replyBool (canAccept c s) s) ∨
    (∃ f : Frame, i = .busRx f ∧ canAccept c s = true ∧ t = replyNone (deliver c f s)) ∨
    (i = .reset ∧ t = replyNone (hardReset c s)) := by
  cases i
  case rdMb w => injection h with h; exact .inr (.inr (.inl ⟨w, rfl, h.symm⟩))
  case wrMb w V => injection h with h; exact .inr (.inr (.inr (.inl ⟨w, V, rfl, h.symm⟩)))
  case rdUndecl off => injection h with h; exact .inr (.inr (.inr (.inr (.inl ⟨off, rfl, h.symm⟩))))
  case wrUndecl off V => injection h with h; exact .inr (.inr (.inr (.inr (.inr (.inl ⟨off, V, rfl, h.symm⟩)))))
  case busAccept => injection h with h; exact .inr (.inr (.inr (.inr (.inr (.inr (.inl ⟨rfl, h.symm⟩))))))
  case busRx f =>
    have h' : (if canAccept c s then Host.Outcome.next (replyNone (deliver c f s))
      else .refused Refusal.receiveWhileFull) = Host.Outcome.next (φ := Fault) t := h
    split at h'
    · injection h' with h'
      exact .inr (.inr (.inr (.inr (.inr (.inr (.inr (.inl ⟨f, rfl, ‹_›, h'.symm⟩)))))))
    · exact absurd h' (by simp)
  case reset => injection h with h; exact .inr (.inr (.inr (.inr (.inr (.inr (.inr (.inr ⟨rfl, h.symm⟩)))))))
  case refusedSize => exact absurd h (by simp [execAt, execRefusedSize])
  case refusedAlign => exact absurd h (by simp [execAt, execRefusedAlign])
  case refusedBus => exact absurd h (by simp [execAt, execRefusedBus])
  case refusedPlatform => exact absurd h (by simp [execAt, execRefusedPlatform])
  case rdMcr => injection h with h; exact .inl ⟨.mcr, rfl, h.symm⟩
  case rdCtrl1 => injection h with h; exact .inl ⟨.ctrl1, rfl, h.symm⟩
  case rdRxmgmask => injection h with h; exact .inl ⟨.rxmgmask, rfl, h.symm⟩
  case rdRx14mask => injection h with h; exact .inl ⟨.rx14mask, rfl, h.symm⟩
  case rdRx15mask => injection h with h; exact .inl ⟨.rx15mask, rfl, h.symm⟩
  case rdEsr1 => injection h with h; exact .inl ⟨.esr1, rfl, h.symm⟩
  case rdImask2 => injection h with h; exact .inl ⟨.imask2, rfl, h.symm⟩
  case rdImask1 => injection h with h; exact .inl ⟨.imask1, rfl, h.symm⟩
  case rdIflag2 => injection h with h; exact .inl ⟨.iflag2, rfl, h.symm⟩
  case rdIflag1 => injection h with h; exact .inl ⟨.iflag1, rfl, h.symm⟩
  case rdCtrl2 => injection h with h; exact .inl ⟨.ctrl2, rfl, h.symm⟩
  case rdRxfgmask => injection h with h; exact .inl ⟨.rxfgmask, rfl, h.symm⟩
  case rdFdctrl => injection h with h; exact .inl ⟨.fdctrl, rfl, h.symm⟩
  case rdFdcbt => injection h with h; exact .inl ⟨.fdcbt, rfl, h.symm⟩
  case rdFdcrc => injection h with h; exact .inl ⟨.fdcrc, rfl, h.symm⟩
  case rdErfcr => injection h with h; exact .inl ⟨.erfcr, rfl, h.symm⟩
  case rdErfier => injection h with h; exact .inl ⟨.erfier, rfl, h.symm⟩
  case rdErfsr => injection h with h; exact .inl ⟨.erfsr, rfl, h.symm⟩
  case wrMcr V => injection h with h; exact .inr (.inl ⟨.mcr, V, rfl, h.symm⟩)
  case wrCtrl1 V => injection h with h; exact .inr (.inl ⟨.ctrl1, V, rfl, h.symm⟩)
  case wrRxmgmask V => injection h with h; exact .inr (.inl ⟨.rxmgmask, V, rfl, h.symm⟩)
  case wrRx14mask V => injection h with h; exact .inr (.inl ⟨.rx14mask, V, rfl, h.symm⟩)
  case wrRx15mask V => injection h with h; exact .inr (.inl ⟨.rx15mask, V, rfl, h.symm⟩)
  case wrEsr1 V => injection h with h; exact .inr (.inl ⟨.esr1, V, rfl, h.symm⟩)
  case wrImask2 V => injection h with h; exact .inr (.inl ⟨.imask2, V, rfl, h.symm⟩)
  case wrImask1 V => injection h with h; exact .inr (.inl ⟨.imask1, V, rfl, h.symm⟩)
  case wrIflag2 V => injection h with h; exact .inr (.inl ⟨.iflag2, V, rfl, h.symm⟩)
  case wrIflag1 V => injection h with h; exact .inr (.inl ⟨.iflag1, V, rfl, h.symm⟩)
  case wrCtrl2 V => injection h with h; exact .inr (.inl ⟨.ctrl2, V, rfl, h.symm⟩)
  case wrRxfgmask V => injection h with h; exact .inr (.inl ⟨.rxfgmask, V, rfl, h.symm⟩)
  case wrFdctrl V => injection h with h; exact .inr (.inl ⟨.fdctrl, V, rfl, h.symm⟩)
  case wrFdcbt V => injection h with h; exact .inr (.inl ⟨.fdcbt, V, rfl, h.symm⟩)
  case wrFdcrc V => injection h with h; exact .inr (.inl ⟨.fdcrc, V, rfl, h.symm⟩)
  case wrErfcr V => injection h with h; exact .inr (.inl ⟨.erfcr, V, rfl, h.symm⟩)
  case wrErfier V => injection h with h; exact .inr (.inl ⟨.erfier, V, rfl, h.symm⟩)
  case wrErfsr V => injection h with h; exact .inr (.inl ⟨.erfsr, V, rfl, h.symm⟩)

/-- `exec` is the machine at the default record. -/
theorem execAt_default (i : Instr) (s : State) : execAt Config.default i s = exec i s := by cases i <;> rfl

/-- The outcomes of an operation of `exec` that answers a next state, one case per kind of operation. -/
theorem exec_next_cases {i : Instr} {s t : State} (h : exec i s = .next t) :
    (∃ r : Reg, i = Instr.read r ∧ t = replyWord (s.regs.get r) s) ∨
    (∃ (r : Reg) (V : Word), i = Instr.write r V ∧ t = replyNone (regWrite Config.default r V s)) ∨
    (∃ w : Fin 512, i = .rdMb w ∧ t = replyWord (mb s w.val) s) ∨
    (∃ (w : Fin 512) (V : Word), i = .wrMb w V ∧ t = replyNone (mbWrite Config.default w.val V s)) ∨
    (∃ off : Offset, i = .rdUndecl off ∧ t = replyWord 0#32 s) ∨
    (∃ (off : Offset) (V : Word), i = .wrUndecl off V ∧ t = replyNone s) ∨
    (i = .busAccept ∧ t = replyBool (canAccept Config.default s) s) ∨
    (∃ f : Frame, i = .busRx f ∧ canAccept Config.default s = true ∧ t = replyNone (deliver Config.default f s)) ∨
    (i = .reset ∧ t = replyNone (hardReset Config.default s)) :=
  execAt_next_cases ((execAt_default i s).trans h)

end Sys2Proof.Machine
end

