-- ==== Sys2Proof/Laws/Assembly.lean ====
section
/-! SUPPORT. The laws of the assembled controller: which events present a request, what a step runs, what it can send. -/

namespace Sys2Proof.Machine

/-- An address in the region is its offset from the base (10_state.md R33). -/
theorem Assembly.offsetOf_inside (a : Assembly) (off : Nat) (h : off < a.config.regionSize) :
    a.offsetOf (a.base + off) = some (BitVec.ofNat 12 off) := by
  rw [offsetOf, if_pos (by omega), Nat.add_sub_cancel_left]

/-- An address outside the region has no offset in it. -/
theorem Assembly.offsetOf_outside (a : Assembly) (addr : Nat)
    (h : addr < a.base ∨ a.base + a.config.regionSize ≤ addr) : a.offsetOf addr = none := by
  rw [offsetOf, if_neg (by omega)]

/-- An event that presents no request leaves the controller as it is. -/
theorem Assembly.step_of_none (a : Assembly) (e : Event) (s : State) (h : a.request e = none) : a.step e s = .next s := by
  unfold Assembly.step
  rw [h]

/-- An event that presents a request runs the operation it decodes to, at the assembly's record. -/
theorem Assembly.step_of_some (a : Assembly) (e : Event) (q : Request) (s : State) (h : a.request e = some q) :
    a.step e s = execAt a.config (decodeAt a.config q) s := by
  unfold Assembly.step
  rw [h]

/-- The two outcomes of a step that completes: nothing was presented, or an operation ran to completion. -/
theorem Assembly.step_next_cases {a : Assembly} {e : Event} {s t : State} (h : a.step e s = .next t) :
    t = s ∨ ∃ i : Instr, execAt a.config i s = .next t := by
  unfold Assembly.step at h
  split at h
  · injection h with h
    exact .inl h.symm
  · exact .inr ⟨_, h⟩

/-- An operation makes no `send` call or one, of a legal frame (41_message_buffer_store.md R174; 00_scope.md R13). -/
theorem execAt_sent {c : Config} {i : Instr} {s t : State} (h : execAt c i s = .next t) :
    t.sent = s.sent ∨ ∃ f : Frame, f.Legal ∧ t.sent = s.sent ++ [f] := by
  rcases execAt_next_cases h with ⟨r, -, rfl⟩ | ⟨r, V, -, rfl⟩ | ⟨w, -, rfl⟩ | ⟨w, V, -, rfl⟩ | ⟨o, -, rfl⟩ |
    ⟨o, V, -, rfl⟩ | ⟨-, rfl⟩ | ⟨f, -, -, rfl⟩ | ⟨-, rfl⟩
  · exact .inl rfl
  · exact .inl (by rw [replyNone_sent, (regWrite_frame _ _ _ _).2.2.1])
  · exact .inl rfl
  · rcases mbWrite_cases c w.val V s with ⟨-, h⟩ | ⟨-, h⟩
    · exact .inl (by rw [replyNone_sent, h, storeWord_sent])
    · exact .inr ⟨_, txFrame_legal _ _ _ _ _, by rw [replyNone_sent, h, setBufferFlag_sent, send_sent]; rfl⟩
  · exact .inl rfl
  · exact .inl rfl
  · exact .inl rfl
  · exact .inl (by rw [replyNone_sent, (deliver_frame _ _ _).2.1])
  · exact .inl rfl

@[simp] theorem Assembly.initial_regs (a : Assembly) : a.initial.regs = Regs.reset a.config := rfl

@[simp] theorem Assembly.initial_mem (a : Assembly) : a.initial.mem = [] := rfl

@[simp] theorem Assembly.initial_inbox (a : Assembly) : a.initial.inbox = [] := rfl

@[simp] theorem Assembly.initial_sent (a : Assembly) : a.initial.sent = [] := rfl

@[simp] theorem Assembly.initial_reply (a : Assembly) : a.initial.reply = .none := rfl

end Sys2Proof.Machine
end

