-- ==== Sys2Proof/Laws/Decode.lean ====
section
/-! SUPPORT. What the opcode table says of whole ranges of selectors: the refused sizes and offsets, and the two classes that
are no MMIO access. -/

namespace Sys2Proof

/-- A row whose pattern differs from a selector in a bit of its mask does not apply. -/
theorem OpcodeRow.applies_false (sel : Sel) (row : OpcodeRow) (b : Nat) (hm : row.mask.getLsbD b = true)
    (hp : row.pattern.getLsbD b ≠ sel.getLsbD b) : row.applies sel = false := by
  simp only [OpcodeRow.applies, beq_eq_false_iff_ne]
  intro h
  apply hp
  rw [← h, BitVec.getLsbD_and, hm, Bool.and_true]

/-- A selector that agrees with a pattern in two bits, the only bits of a mask, meets it. -/
theorem and_mask_two (sel mask pattern : Sel) (a b : Nat) (hm : ∀ i < 16, mask.getLsbD i = true → i = a ∨ i = b)
    (hp : ∀ i < 16, mask.getLsbD i = false → pattern.getLsbD i = false)
    (hab : (sel &&& mask).getLsbD a = pattern.getLsbD a ∧ (sel &&& mask).getLsbD b = pattern.getLsbD b) :
    sel &&& mask = pattern := by
  apply BitVec.eq_of_getLsbD_eq
  intro i hi
  cases h : mask.getLsbD i
  · rw [BitVec.getLsbD_and, h, hp i hi h, Bool.and_false]
  · rcases hm i hi h with rfl | rfl
    · exact hab.1
    · exact hab.2

/-- Rows that do not apply can be passed over. -/
theorem find?_skip (sel : Sel) (l l' : List OpcodeRow) (h : ∀ row ∈ l, row.applies sel = false) :
    (l ++ l').find? (OpcodeRow.applies sel) = l'.find? (OpcodeRow.applies sel) := by
  rw [List.find?_append, List.find?_eq_none.mpr (fun row hr => by simp [h row hr]), Option.none_or]

/-- An MMIO selector whose size field is not `00` is refused for its size (30_encoding.md R92, R93 (1)). -/
theorem classify_size (sel : Sel) (hc : sel.getLsbD 15 = false) (hs : sel.getLsbD 12 = true ∨ sel.getLsbD 13 = true) :
    classify sel = .refusedSize := by
  have h1 : sel.getLsbD 12 = true → sel &&& 0x9000#16 = 0x1000#16 := fun h =>
    and_mask_two sel 0x9000#16 0x1000#16 12 15 (by decide) (by decide)
      ⟨by rw [BitVec.getLsbD_and, h]; decide, by rw [BitVec.getLsbD_and, hc]; decide⟩
  have h2 : sel.getLsbD 13 = true → sel &&& 0xA000#16 = 0x2000#16 := fun h =>
    and_mask_two sel 0xA000#16 0x2000#16 13 15 (by decide) (by decide)
      ⟨by rw [BitVec.getLsbD_and, h]; decide, by rw [BitVec.getLsbD_and, hc]; decide⟩
  unfold classify opcodeTable refusalRows
  simp only [List.cons_append, List.find?_cons, OpcodeRow.applies]
  rcases hs with h | h
  · simp [h1 h]
  · cases h' : sel &&& 0x9000#16 == 0x1000#16 <;> simp [h2 h]

/-- An MMIO selector of size `00` whose offset is no multiple of 4 is refused for its alignment (R92, R93 (1)). -/
theorem classify_align (sel : Sel) (hc : sel.getLsbD 15 = false) (h2 : sel.getLsbD 12 = false)
    (h3 : sel.getLsbD 13 = false) (ha : sel.getLsbD 0 = true ∨ sel.getLsbD 1 = true) : classify sel = .refusedAlign := by
  have e1 : sel.getLsbD 0 = true → sel &&& 0x8001#16 = 0x0001#16 := fun h =>
    and_mask_two sel 0x8001#16 0x0001#16 0 15 (by decide) (by decide)
      ⟨by rw [BitVec.getLsbD_and, h]; decide, by rw [BitVec.getLsbD_and, hc]; decide⟩
  have e2 : sel.getLsbD 1 = true → sel &&& 0x8002#16 = 0x0002#16 := fun h =>
    and_mask_two sel 0x8002#16 0x0002#16 1 15 (by decide) (by decide)
      ⟨by rw [BitVec.getLsbD_and, h]; decide, by rw [BitVec.getLsbD_and, hc]; decide⟩
  have n1 : (sel &&& 0x9000#16 == 0x1000#16) = false :=
    OpcodeRow.applies_false sel ⟨0x9000#16, 0x1000#16, .refusedSize⟩ 12 (by decide) (by rw [h2]; decide)
  have n2 : (sel &&& 0xA000#16 == 0x2000#16) = false :=
    OpcodeRow.applies_false sel ⟨0xA000#16, 0x2000#16, .refusedSize⟩ 13 (by decide) (by rw [h3]; decide)
  unfold classify opcodeTable refusalRows
  simp only [List.cons_append, List.find?_cons, OpcodeRow.applies, n1, n2]
  rcases ha with h | h
  · simp [e1 h]
  · cases h' : sel &&& 0x8001#16 == 0x0001#16 <;> simp [e2 h]

/-- The rows of the MMIO accesses. -/
def mmioRows : List OpcodeRow :=
  refusalRows ++ registerFileRows ++ extensionRows ++ windowRows ++
    [⟨0xC000#16, 0x0000#16, .rdUndecl⟩, ⟨0xC000#16, 0x4000#16, .wrUndecl⟩]

/-- No row of an MMIO access applies to a selector of class `10` or `11` (R90). -/
theorem mmioRows_skip (sel : Sel) (hc : sel.getLsbD 15 = true) : ∀ row ∈ mmioRows, row.applies sel = false := by
  have h : ∀ row ∈ mmioRows, row.mask.getLsbD 15 = true ∧ row.pattern.getLsbD 15 = false := by decide
  intro row hr
  exact OpcodeRow.applies_false sel row 15 (h row hr).1 (by rw [(h row hr).2, hc]; decide)

/-- Class `10`: the query, the delivery, or no operation (R93 (8), (9), (11)). -/
theorem classify_bus (sel : Sel) (hc : sel.getLsbD 15 = true) (h14 : sel.getLsbD 14 = false) :
    classify sel = if sel = 0x8000#16 then .busAccept else if sel = 0x8001#16 then .busRx else .refusedBus := by
  have hm : sel &&& 0xC000#16 = 0x8000#16 := and_mask_two sel 0xC000#16 0x8000#16 15 14 (by decide) (by decide)
    ⟨by rw [BitVec.getLsbD_and, hc]; decide, by rw [BitVec.getLsbD_and, h14]; decide⟩
  have hf : sel &&& 0xFFFF#16 = sel := BitVec.and_allOnes (x := sel)
  show (match (mmioRows ++ _).find? (OpcodeRow.applies sel) with
    | some row => row.kind
    | none => .refusedPlatform) = _
  rw [find?_skip sel mmioRows _ (mmioRows_skip sel hc)]
  simp only [List.find?_cons, OpcodeRow.applies, hf, hm]
  by_cases h1 : sel = 0x8000#16
  · simp [h1]
  · by_cases h2 : sel = 0x8001#16
    · simp [h2]
    · simp [h1, h2, beq_false_of_ne]

/-- Class `11`: the hard reset, or no operation (R93 (10), (11)). -/
theorem classify_platform (sel : Sel) (hc : sel.getLsbD 15 = true) (h14 : sel.getLsbD 14 = true) :
    classify sel = if sel = 0xC000#16 then .reset else .refusedPlatform := by
  have hm : sel &&& 0xC000#16 = 0xC000#16 := and_mask_two sel 0xC000#16 0xC000#16 15 14 (by decide) (by decide)
    ⟨by rw [BitVec.getLsbD_and, hc]; decide, by rw [BitVec.getLsbD_and, h14]; decide⟩
  have hf : sel &&& 0xFFFF#16 = sel := BitVec.and_allOnes (x := sel)
  have n1 : sel ≠ 0x8000#16 := by rintro rfl; exact absurd h14 (by decide)
  have n2 : sel ≠ 0x8001#16 := by rintro rfl; exact absurd h14 (by decide)
  show (match (mmioRows ++ _).find? (OpcodeRow.applies sel) with
    | some row => row.kind
    | none => .refusedPlatform) = _
  rw [find?_skip sel mmioRows _ (mmioRows_skip sel hc)]
  simp only [List.find?_cons, OpcodeRow.applies, hf, hm]
  by_cases h1 : sel = 0xC000#16
  · simp [h1]
  · simp [h1, n1, n2, beq_false_of_ne]

end Sys2Proof
end

