-- ==== Sys2Proof/Laws/Flags.lean ====
section
/-! SUPPORT. The laws of the interrupt flags: what each operation that touches a flag register does to every buffer's flag,
and the register writes at the default record in closed form. -/

namespace Sys2Proof.Machine

/-! ### Register writes at the default record -/

/-- A write of a write-1-to-clear register clears the bits written 1 (40_register_bank.md R127, R130, R131). -/
theorem regWrite_default_w1c (r : Reg) (h : r = .iflag1 ∨ r = .iflag2 ∨ r = .esr1) (V : Word) (s : State) :
    regWrite Config.default r V s = setReg r (s.regs.get r &&& ~~~V) s := by
  have hr : r ≠ .mcr := by rcases h with rfl | rfl | rfl <;> decide
  have hp : (Config.default.decl r).policy = .w1c := by rcases h with rfl | rfl | rfl <;> rfl
  rw [regWrite_of_ne_mcr _ _ _ _ hr, maskedStore, default_wmask _ hr, hp, combine_w1c_full]
  rfl

/-- A write of any other register but `MCR` stores the written word (40_register_bank.md R120). -/
theorem regWrite_default_overwrite (r : Reg) (h : r ≠ .mcr) (h' : r ≠ .esr1 ∧ r ≠ .iflag1 ∧ r ≠ .iflag2) (V : Word)
    (s : State) : regWrite Config.default r V s = setReg r V s := by
  rw [regWrite_of_ne_mcr _ _ _ _ h, maskedStore, default_wmask _ h, default_policy r h', combine_overwrite_full]
  rfl

/-- The write mask of `MCR` leaves out exactly the three status bits (10_state.md R25). -/
theorem default_mcr_wmask (b : Nat) (hb : b < 32) :
    (Config.default.decl .mcr).wmask.getLsbD b = !decide (b = 27 ∨ b = 24 ∨ b = 20) := by
  revert b; decide

/-- The word a write of `MCR` stores before its hook, bit by bit (40_register_bank.md R121). -/
theorem storedMcr_default_getLsbD (V o : Word) (b : Nat) (hb : b < 32) :
    (storedMcr Config.default V o).getLsbD b = if b = 27 ∨ b = 24 ∨ b = 20 then o.getLsbD b else V.getLsbD b := by
  rw [storedMcr, show (Config.default.decl .mcr).policy = .overwrite from rfl, combine_overwrite_getLsbD _ _ _ _ hb,
    default_mcr_wmask b hb]
  by_cases h : b = 27 ∨ b = 24 ∨ b = 20 <;> simp only [h, decide_true, decide_false, Bool.not_true, Bool.not_false,
    if_true, if_false, Bool.false_eq_true]

/-! ### The transmit trigger -/

/-- The transmit trigger at the default record (41_message_buffer_store.md R172). -/
theorem txTrigger_default_iff (w : Nat) (V : Word) (s : State) : txTrigger Config.default w V s = true ↔
    w % 4 = 0 ∧ s.regs.mcr.getLsbD 24 = false ∧ slice V 27 24 = 0xC := by
  simp only [txTrigger, frozen, default_frzackBit, default_codeHi, default_codeLo, default_codeTxData, Bool.and_eq_true,
    beq_iff_eq, Bool.not_eq_true', and_assoc]

/-- A word index that is a multiple of 4 is the control word of its buffer (20_memory.md R70). -/
theorem bufferWord_of_control (w : Fin 512) (h : w.val % 4 = 0) :
    ∃ n : Fin 128, w = bufferWord n 0 ∧ w.val = 4 * n.val :=
  ⟨⟨w.val / 4, by omega⟩, Fin.ext (show w.val = 4 * (w.val / 4) + 0 by omega), show w.val = 4 * (w.val / 4) by omega⟩

/-! ### Every buffer's flag -/

/-- A buffer's flag is a function of the two flag registers. -/
theorem bufferFlag_congr {s t : State} (h1 : t.regs.iflag1 = s.regs.iflag1) (h2 : t.regs.iflag2 = s.regs.iflag2)
    (n : Nat) : bufferFlag n t = bufferFlag n s := by
  unfold bufferFlag groupFlag
  split <;> simp [*]

/-- The IRQ level is a function of the four interrupt registers. -/
theorem irq_congr {s t : State} (h1 : t.regs.imask1 = s.regs.imask1) (h2 : t.regs.imask2 = s.regs.imask2)
    (h3 : t.regs.iflag1 = s.regs.iflag1) (h4 : t.regs.iflag2 = s.regs.iflag2) : irq t = irq s := by
  unfold irq
  rw [h1, h2, h3, h4]

/-- Setting bit `b` of group `g` sets the flag of buffer `32 (g - 1) + b` and no other. -/
theorem bufferFlag_setGroupFlag (g b k : Nat) (s : State) (hg : g = 1 ∨ g = 2) (hb : b < 32) :
    bufferFlag k (setGroupFlag g b s) = (bufferFlag k s || decide (k = 32 * (g - 1) + b)) := by
  unfold bufferFlag
  have h32 : 32 * flagGroups = 64 := rfl
  rw [h32]
  by_cases hk : k < 64
  · have hd : k / 32 = 0 ∨ k / 32 = 1 := by omega
    have hm : k % 32 < 32 := Nat.mod_lt _ (by decide)
    rcases hg with rfl | rfl <;> rcases hd with hd | hd
    · have he : (k % 32 = b) ↔ k = b := by omega
      simp [hk, hd, hm, he, groupFlag, -BitVec.getLsbD_eq_getElem]
    · have he : ¬ k = b := by omega
      simp [hk, hd, he, groupFlag, -BitVec.getLsbD_eq_getElem]
    · have he : ¬ k = 32 + b := by omega
      simp [hk, hd, he, groupFlag, -BitVec.getLsbD_eq_getElem]
    · have he : (k % 32 = b) ↔ k = 32 + b := by omega
      simp [hk, hd, hm, he, groupFlag, -BitVec.getLsbD_eq_getElem]
  · have he : ¬ k = 32 * (g - 1) + b := by omega
    simp [hk, he]

/-- A transmit dispatch of buffer `n` sets the flag of buffer `n`, if it owns one, and no other
(41_message_buffer_store.md R175, R176). -/
theorem bufferFlag_setBufferFlag (n k : Nat) (s : State) :
    bufferFlag k (setBufferFlag n s) = (bufferFlag k s || (decide (k = n) && decide (n < 64))) := by
  unfold setBufferFlag
  rw [show 32 * flagGroups = 64 from rfl]
  split
  · rename_i hn
    rw [bufferFlag_setGroupFlag _ _ _ _ (by omega) (by omega), show 32 * (n / 32 + 1 - 1) + n % 32 = n by omega]
    simp [hn]
  · rename_i hn
    simp [hn]

/-- A reception sets the flag of buffer 0 and no other (42_bus_client_receive.md R192). -/
theorem bufferFlag_deliver (f : Frame) (k : Nat) (s : State) :
    bufferFlag k (deliver Config.default f s) = (bufferFlag k s || decide (k = 0)) := by
  unfold deliver
  rw [default_rxFlagGroup, default_rxFlagBit, bufferFlag_setGroupFlag _ _ _ _ (.inl rfl) (by decide)]
  rfl

/-- `WR.IFLAG1` clears the flags of buffers 0 to 31 written 1 and no other (40_register_bank.md R131). -/
theorem bufferFlag_wrIflag1 (V : Word) (s : State) (k : Nat) : bufferFlag k (regWrite Config.default .iflag1 V s) =
    (bufferFlag k s && !(decide (k < 32) && V.getLsbD k)) := by
  rw [regWrite_default_w1c _ (by decide)]
  unfold bufferFlag
  by_cases h2 : k < 32
  · have hd : k / 32 = 0 := by omega
    have hm : k % 32 = k := by omega
    simp [h2, hd, hm, groupFlag, -BitVec.getLsbD_eq_getElem, Bool.and_assoc]
  · by_cases h3 : k < 64
    · have hd : k / 32 = 1 := by omega
      simp [h2, hd, groupFlag, -BitVec.getLsbD_eq_getElem]
    · have hn : ¬ k < 32 * flagGroups := h3
      simp [hn]

/-- `WR.IFLAG2` clears the flags of buffers 32 to 63 written 1 and no other (40_register_bank.md R130). -/
theorem bufferFlag_wrIflag2 (V : Word) (s : State) (k : Nat) : bufferFlag k (regWrite Config.default .iflag2 V s) =
    (bufferFlag k s && !(decide (32 ≤ k) && V.getLsbD (k - 32))) := by
  rw [regWrite_default_w1c _ (by decide)]
  unfold bufferFlag
  by_cases h2 : k < 32
  · have hd : k / 32 = 0 := by omega
    have hn : ¬ 32 ≤ k := by omega
    simp [hd, hn, groupFlag, -BitVec.getLsbD_eq_getElem]
  · by_cases h3 : k < 64
    · have hd : k / 32 = 1 := by omega
      have hm : k % 32 = k - 32 := by omega
      have hi : k - 32 < 32 := by omega
      have hn : 32 ≤ k := by omega
      simp [hd, hm, hi, hn, groupFlag, -BitVec.getLsbD_eq_getElem, Bool.and_assoc]
    · have hn : ¬ k < 32 * flagGroups := h3
      simp [hn]

end Sys2Proof.Machine
end

