-- ==== Sys2Proof/Laws/PerInstr.lean ====
section
/-! SUPPORT. Statements for all instructions, one lemma per constructor of `Instr`. -/

namespace Sys2Proof.Laws.SelectorFields

open Sys2Proof Sys2Proof.Machine

/-- The fields of an operation's selector (30_encoding.md R90): its class is that of the agent that issues it, and its
size field is `00` unless it is one of the refused selectors. -/
def Statement (i : Instr) : Prop :=
  (encode i).agent = i.issuer ∧ (selSize (encode i).sel = 0#2 ∨ isRefusedSelector i = true)

/-- The bits of a selector given by its offset (30_encoding.md R94). -/
theorem sel_bits (n : Nat) (h : n < 0x1000) :
    (readSel n).getLsbD 15 = false ∧ selSize (readSel n) = 0#2 ∧ (writeSel n).getLsbD 15 = false ∧
      selSize (writeSel n) = 0#2 := by
  have hr : (readSel n).toNat = n := Nat.mod_eq_of_lt (by omega)
  have hw : (writeSel n).toNat = 0x4000 + n := Nat.mod_eq_of_lt (by omega)
  refine ⟨?_, ?_, ?_, ?_⟩
  · rw [← BitVec.testBit_toNat, hr]; exact Nat.testBit_lt_two_pow (by omega)
  · apply BitVec.eq_of_toNat_eq
    simp only [selSize, BitVec.extractLsb'_toNat, hr, Nat.shiftRight_eq_div_pow, BitVec.toNat_ofNat]; omega
  · rw [← BitVec.testBit_toNat, hw]; exact Nat.testBit_lt_two_pow (by omega)
  · apply BitVec.eq_of_toNat_eq
    simp only [selSize, BitVec.extractLsb'_toNat, hw, Nat.shiftRight_eq_div_pow, BitVec.toNat_ofNat]; omega

/-- The bits of a selector given by its fields (30_encoding.md R90). -/
theorem field_bits (cls size : BitVec 2) (off : Offset) :
    (fieldSel cls size off).getLsbD 15 = cls.getLsbD 1 ∧ (fieldSel cls size off).getLsbD 14 = cls.getLsbD 0 ∧
      selSize (fieldSel cls size off) = size := by
  have h : ∀ i : Nat, (fieldSel cls size off).getLsbD i =
      if i < 12 then off.getLsbD i else if i - 12 < 2 then size.getLsbD (i - 12) else cls.getLsbD (i - 12 - 2) := by
    intro i
    show (cls ++ size ++ off).getLsbD i = _
    simp only [BitVec.getLsbD_append]
  refine ⟨by rw [h]; rfl, by rw [h]; rfl, ?_⟩
  apply BitVec.eq_of_getLsbD_eq
  intro i hi
  rw [selSize, BitVec.getLsbD_extractLsb', h]
  have hi' : ¬ 12 + i < 12 := by omega
  simp [hi, hi', -BitVec.getLsbD_eq_getElem]

/-- The agent of a request by the class field of its selector. -/
theorem agent_of (sel : Sel) (V : Word) (f : Frame) (h : sel.getLsbD 15 = false) : (Request.mk sel V f).agent = .host := by
  simp only [Request.agent, h, Bool.false_eq_true, if_false]

theorem rdMcr : Statement (.rdMcr) := 
  have h := sel_bits (regOffset .mcr) (by decide)
  ⟨agent_of _ _ _ h.1, .inl h.2.1⟩

theorem wrMcr (V : Word) : Statement (.wrMcr V) := 
  have h := sel_bits (regOffset .mcr) (by decide)
  ⟨agent_of _ _ _ h.2.2.1, .inl h.2.2.2⟩

theorem rdCtrl1 : Statement (.rdCtrl1) := 
  have h := sel_bits (regOffset .ctrl1) (by decide)
  ⟨agent_of _ _ _ h.1, .inl h.2.1⟩

theorem wrCtrl1 (V : Word) : Statement (.wrCtrl1 V) := 
  have h := sel_bits (regOffset .ctrl1) (by decide)
  ⟨agent_of _ _ _ h.2.2.1, .inl h.2.2.2⟩

theorem rdRxmgmask : Statement (.rdRxmgmask) := 
  have h := sel_bits (regOffset .rxmgmask) (by decide)
  ⟨agent_of _ _ _ h.1, .inl h.2.1⟩

theorem wrRxmgmask (V : Word) : Statement (.wrRxmgmask V) := 
  have h := sel_bits (regOffset .rxmgmask) (by decide)
  ⟨agent_of _ _ _ h.2.2.1, .inl h.2.2.2⟩

theorem rdRx14mask : Statement (.rdRx14mask) := 
  have h := sel_bits (regOffset .rx14mask) (by decide)
  ⟨agent_of _ _ _ h.1, .inl h.2.1⟩

theorem wrRx14mask (V : Word) : Statement (.wrRx14mask V) := 
  have h := sel_bits (regOffset .rx14mask) (by decide)
  ⟨agent_of _ _ _ h.2.2.1, .inl h.2.2.2⟩

theorem rdRx15mask : Statement (.rdRx15mask) := 
  have h := sel_bits (regOffset .rx15mask) (by decide)
  ⟨agent_of _ _ _ h.1, .inl h.2.1⟩

theorem wrRx15mask (V : Word) : Statement (.wrRx15mask V) := 
  have h := sel_bits (regOffset .rx15mask) (by decide)
  ⟨agent_of _ _ _ h.2.2.1, .inl h.2.2.2⟩

theorem rdEsr1 : Statement (.rdEsr1) := 
  have h := sel_bits (regOffset .esr1) (by decide)
  ⟨agent_of _ _ _ h.1, .inl h.2.1⟩

theorem wrEsr1 (V : Word) : Statement (.wrEsr1 V) := 
  have h := sel_bits (regOffset .esr1) (by decide)
  ⟨agent_of _ _ _ h.2.2.1, .inl h.2.2.2⟩

theorem rdImask2 : Statement (.rdImask2) := 
  have h := sel_bits (regOffset .imask2) (by decide)
  ⟨agent_of _ _ _ h.1, .inl h.2.1⟩

theorem wrImask2 (V : Word) : Statement (.wrImask2 V) := 
  have h := sel_bits (regOffset .imask2) (by decide)
  ⟨agent_of _ _ _ h.2.2.1, .inl h.2.2.2⟩

theorem rdImask1 : Statement (.rdImask1) := 
  have h := sel_bits (regOffset .imask1) (by decide)
  ⟨agent_of _ _ _ h.1, .inl h.2.1⟩

theorem wrImask1 (V : Word) : Statement (.wrImask1 V) := 
  have h := sel_bits (regOffset .imask1) (by decide)
  ⟨agent_of _ _ _ h.2.2.1, .inl h.2.2.2⟩

theorem rdIflag2 : Statement (.rdIflag2) := 
  have h := sel_bits (regOffset .iflag2) (by decide)
  ⟨agent_of _ _ _ h.1, .inl h.2.1⟩

theorem wrIflag2 (V : Word) : Statement (.wrIflag2 V) := 
  have h := sel_bits (regOffset .iflag2) (by decide)
  ⟨agent_of _ _ _ h.2.2.1, .inl h.2.2.2⟩

theorem rdIflag1 : Statement (.rdIflag1) := 
  have h := sel_bits (regOffset .iflag1) (by decide)
  ⟨agent_of _ _ _ h.1, .inl h.2.1⟩

theorem wrIflag1 (V : Word) : Statement (.wrIflag1 V) := 
  have h := sel_bits (regOffset .iflag1) (by decide)
  ⟨agent_of _ _ _ h.2.2.1, .inl h.2.2.2⟩

theorem rdCtrl2 : Statement (.rdCtrl2) := 
  have h := sel_bits (regOffset .ctrl2) (by decide)
  ⟨agent_of _ _ _ h.1, .inl h.2.1⟩

theorem wrCtrl2 (V : Word) : Statement (.wrCtrl2 V) := 
  have h := sel_bits (regOffset .ctrl2) (by decide)
  ⟨agent_of _ _ _ h.2.2.1, .inl h.2.2.2⟩

theorem rdRxfgmask : Statement (.rdRxfgmask) := 
  have h := sel_bits (regOffset .rxfgmask) (by decide)
  ⟨agent_of _ _ _ h.1, .inl h.2.1⟩

theorem wrRxfgmask (V : Word) : Statement (.wrRxfgmask V) := 
  have h := sel_bits (regOffset .rxfgmask) (by decide)
  ⟨agent_of _ _ _ h.2.2.1, .inl h.2.2.2⟩

theorem rdFdctrl : Statement (.rdFdctrl) := 
  have h := sel_bits (regOffset .fdctrl) (by decide)
  ⟨agent_of _ _ _ h.1, .inl h.2.1⟩

theorem wrFdctrl (V : Word) : Statement (.wrFdctrl V) := 
  have h := sel_bits (regOffset .fdctrl) (by decide)
  ⟨agent_of _ _ _ h.2.2.1, .inl h.2.2.2⟩

theorem rdFdcbt : Statement (.rdFdcbt) := 
  have h := sel_bits (regOffset .fdcbt) (by decide)
  ⟨agent_of _ _ _ h.1, .inl h.2.1⟩

theorem wrFdcbt (V : Word) : Statement (.wrFdcbt V) := 
  have h := sel_bits (regOffset .fdcbt) (by decide)
  ⟨agent_of _ _ _ h.2.2.1, .inl h.2.2.2⟩

theorem rdFdcrc : Statement (.rdFdcrc) := 
  have h := sel_bits (regOffset .fdcrc) (by decide)
  ⟨agent_of _ _ _ h.1, .inl h.2.1⟩

theorem wrFdcrc (V : Word) : Statement (.wrFdcrc V) := 
  have h := sel_bits (regOffset .fdcrc) (by decide)
  ⟨agent_of _ _ _ h.2.2.1, .inl h.2.2.2⟩

theorem rdErfcr : Statement (.rdErfcr) := 
  have h := sel_bits (regOffset .erfcr) (by decide)
  ⟨agent_of _ _ _ h.1, .inl h.2.1⟩

theorem wrErfcr (V : Word) : Statement (.wrErfcr V) := 
  have h := sel_bits (regOffset .erfcr) (by decide)
  ⟨agent_of _ _ _ h.2.2.1, .inl h.2.2.2⟩

theorem rdErfier : Statement (.rdErfier) := 
  have h := sel_bits (regOffset .erfier) (by decide)
  ⟨agent_of _ _ _ h.1, .inl h.2.1⟩

theorem wrErfier (V : Word) : Statement (.wrErfier V) := 
  have h := sel_bits (regOffset .erfier) (by decide)
  ⟨agent_of _ _ _ h.2.2.1, .inl h.2.2.2⟩

theorem rdErfsr : Statement (.rdErfsr) := 
  have h := sel_bits (regOffset .erfsr) (by decide)
  ⟨agent_of _ _ _ h.1, .inl h.2.1⟩

theorem wrErfsr (V : Word) : Statement (.wrErfsr V) := 
  have h := sel_bits (regOffset .erfsr) (by decide)
  ⟨agent_of _ _ _ h.2.2.1, .inl h.2.2.2⟩

theorem rdMb (i : Fin 512) : Statement (.rdMb i) := by
  have h := sel_bits (wordOffset i) (show 0x080 + 4 * i.val < 0x1000 by omega)
  exact ⟨agent_of _ _ _ h.1, .inl h.2.1⟩

theorem wrMb (i : Fin 512) (V : Word) : Statement (.wrMb i V) := by
  have h := sel_bits (wordOffset i) (show 0x080 + 4 * i.val < 0x1000 by omega)
  exact ⟨agent_of _ _ _ h.2.2.1, .inl h.2.2.2⟩

theorem rdUndecl (off : Offset) : Statement (.rdUndecl off) := 
  ⟨agent_of _ _ _ (field_bits 0b00#2 0#2 off).1, .inl (field_bits 0b00#2 0#2 off).2.2⟩

theorem wrUndecl (off : Offset) (V : Word) : Statement (.wrUndecl off V) := 
  ⟨agent_of _ _ _ (field_bits 0b01#2 0#2 off).1, .inl (field_bits 0b01#2 0#2 off).2.2⟩

theorem busAccept : Statement (.busAccept) := ⟨rfl, .inl rfl⟩

theorem busRx (f : Frame) : Statement (.busRx f) := by
  constructor
  · have h1 : (0x8001#16 : Sel).getLsbD 15 = true := by decide
    have h0 : (0x8001#16 : Sel).getLsbD 14 = false := by decide
    show (Request.mk 0x8001#16 0#32 f).agent = .bus
    simp only [Request.agent, h1, h0, if_true, Bool.false_eq_true, if_false]
  · exact .inl (show selSize 0x8001#16 = 0#2 by decide)

theorem reset : Statement (.reset) := ⟨rfl, .inl rfl⟩

theorem refusedSize (dir : Dir) (size : SubSize) (off : Offset) : Statement (.refusedSize dir size off) := by
  cases dir
  · exact ⟨agent_of _ _ _ (field_bits 0b00#2 size.field off).1, .inr rfl⟩
  · exact ⟨agent_of _ _ _ (field_bits 0b01#2 size.field off).1, .inr rfl⟩

theorem refusedAlign (dir : Dir) (off : Offset) : Statement (.refusedAlign dir off) := by
  cases dir
  · exact ⟨agent_of _ _ _ (field_bits 0b00#2 0#2 off).1, .inr rfl⟩
  · exact ⟨agent_of _ _ _ (field_bits 0b01#2 0#2 off).1, .inr rfl⟩

theorem refusedBus (size : BitVec 2) (func : Offset) : Statement (.refusedBus size func) := by
  obtain ⟨h1, h0, -⟩ := field_bits 0b10#2 size func
  refine ⟨?_, .inr rfl⟩
  show (Request.mk (fieldSel 0b10#2 size func) 0#32 Frame.empty).agent = .bus
  simp only [Request.agent, h1, h0]
  rfl

theorem refusedPlatform (size : BitVec 2) (func : Offset) : Statement (.refusedPlatform size func) := by
  obtain ⟨h1, h0, -⟩ := field_bits 0b11#2 size func
  refine ⟨?_, .inr rfl⟩
  show (Request.mk (fieldSel 0b11#2 size func) 0#32 Frame.empty).agent = .platform
  simp only [Request.agent, h1, h0]
  rfl

end Sys2Proof.Laws.SelectorFields
end

