-- ==== Sys2Proof/Machine/Text.lean ====
section
/-! DEFINITION. The textual form of operations the spec writes its examples in (30_encoding.md R107). Numbers are
hexadecimal with `0x`, values with eight digits, offsets with three (log 19). -/

namespace Sys2Proof.Machine

/-- One hexadecimal digit. -/
def hexDigit (n : Nat) : Char :=
  if n % 16 < 10 then Char.ofNat (48 + n % 16) else Char.ofNat (55 + n % 16)

/-- The low `digits` hexadecimal digits of `n`, most significant first. -/
def hexChars : Nat → Nat → List Char
  | 0, _ => []
  | k + 1, n => hexChars k (n / 16) ++ [hexDigit n]

/-- `n` in hexadecimal, with `0x`. -/
def hex (digits n : Nat) : String := "0x" ++ String.ofList (hexChars digits n)

/-- `n` in decimal, for buffer and length numbers. -/
def decimal (n : Nat) : String := toString n

/-- The name of a register in the text. -/
def regName : Reg → String
  | .mcr => "MCR"
  | .ctrl1 => "CTRL1"
  | .rxmgmask => "RXMGMASK"
  | .rx14mask => "RX14MASK"
  | .rx15mask => "RX15MASK"
  | .esr1 => "ESR1"
  | .imask2 => "IMASK2"
  | .imask1 => "IMASK1"
  | .iflag2 => "IFLAG2"
  | .iflag1 => "IFLAG1"
  | .ctrl2 => "CTRL2"
  | .rxfgmask => "RXFGMASK"
  | .fdctrl => "FDCTRL"
  | .fdcbt => "FDCBT"
  | .fdcrc => "FDCRC"
  | .erfcr => "ERFCR"
  | .erfier => "ERFIER"
  | .erfsr => "ERFSR"

/-- The name of word `w` of a buffer: `CS`, `ID`, `D0`, `D1`. -/
def wordName (w : Nat) : String :=
  if w % 4 = 0 then "CS" else if w % 4 = 1 then "ID" else if w % 4 = 2 then "D0" else "D1"

/-- `MB<n>.<w>` for buffer word `i`. -/
def bufferName (i : Fin 512) : String := "MB" ++ decimal (i.val / 4) ++ "." ++ wordName i.val

/-- An opening and a closing brace, which no string literal of the model may hold. -/
def inBraces (t : String) : String := String.singleton (Char.ofNat 123) ++ t ++ String.singleton (Char.ofNat 125)

/-- `RD <target>`. -/
def readText (target : String) : String := "RD " ++ target

/-- `WR <target>, <value>`. -/
def writeText (target : String) (V : Word) : String := "WR " ++ target ++ ", " ++ hex 8 V.toNat

/-- A frame as the examples write it. -/
def frameText (f : Frame) : String :=
  inBraces ("id=" ++ hex 8 f.id ++ ", ext=" ++ (if f.ext then "1" else "0") ++ ", dlc=" ++ decimal f.dlc ++ ", data=["
    ++ String.intercalate "," (f.data.map fun b => hex 2 b.toNat) ++ "]")

/-- The text of an operation; a refused selector names none and has none. -/
def instrText : Instr → Option String
  | .rdMcr => some (readText (regName .mcr))
  | .wrMcr V => some (writeText (regName .mcr) V)
  | .rdCtrl1 => some (readText (regName .ctrl1))
  | .wrCtrl1 V => some (writeText (regName .ctrl1) V)
  | .rdRxmgmask => some (readText (regName .rxmgmask))
  | .wrRxmgmask V => some (writeText (regName .rxmgmask) V)
  | .rdRx14mask => some (readText (regName .rx14mask))
  | .wrRx14mask V => some (writeText (regName .rx14mask) V)
  | .rdRx15mask => some (readText (regName .rx15mask))
  | .wrRx15mask V => some (writeText (regName .rx15mask) V)
  | .rdEsr1 => some (readText (regName .esr1))
  | .wrEsr1 V => some (writeText (regName .esr1) V)
  | .rdImask2 => some (readText (regName .imask2))
  | .wrImask2 V => some (writeText (regName .imask2) V)
  | .rdImask1 => some (readText (regName .imask1))
  | .wrImask1 V => some (writeText (regName .imask1) V)
  | .rdIflag2 => some (readText (regName .iflag2))
  | .wrIflag2 V => some (writeText (regName .iflag2) V)
  | .rdIflag1 => some (readText (regName .iflag1))
  | .wrIflag1 V => some (writeText (regName .iflag1) V)
  | .rdCtrl2 => some (readText (regName .ctrl2))
  | .wrCtrl2 V => some (writeText (regName .ctrl2) V)
  | .rdRxfgmask => some (readText (regName .rxfgmask))
  | .wrRxfgmask V => some (writeText (regName .rxfgmask) V)
  | .rdFdctrl => some (readText (regName .fdctrl))
  | .wrFdctrl V => some (writeText (regName .fdctrl) V)
  | .rdFdcbt => some (readText (regName .fdcbt))
  | .wrFdcbt V => some (writeText (regName .fdcbt) V)
  | .rdFdcrc => some (readText (regName .fdcrc))
  | .wrFdcrc V => some (writeText (regName .fdcrc) V)
  | .rdErfcr => some (readText (regName .erfcr))
  | .wrErfcr V => some (writeText (regName .erfcr) V)
  | .rdErfier => some (readText (regName .erfier))
  | .wrErfier V => some (writeText (regName .erfier) V)
  | .rdErfsr => some (readText (regName .erfsr))
  | .wrErfsr V => some (writeText (regName .erfsr) V)
  | .rdMb i => some (readText (bufferName i))
  | .wrMb i V => some (writeText (bufferName i) V)
  | .rdUndecl off => some (readText ("@" ++ hex 3 off.toNat))
  | .wrUndecl off V => some (writeText ("@" ++ hex 3 off.toNat) V)
  | .busAccept => some "ACCEPT?"
  | .busRx f => some ("RX " ++ frameText f)
  | .reset => some "RESET"
  | .refusedSize _ _ _ | .refusedAlign _ _ | .refusedBus _ _ | .refusedPlatform _ _ => none

end Sys2Proof.Machine
end

