-- ==== Sys2Proof/Tests/Slice0.lean ====
section
/-! SUPPORT. Tests: ill-formed terms refused, words decoded bit by bit, one-step vectors, and a witness for the hypotheses of
every obligation. Expected values are those of spec/95_test_vectors.md (named in the docstrings) or computed by hand from
the cited rule, never the model's own output. -/

namespace Sys2Proof.Tests

open Sys2Proof Sys2Proof.Machine

/-! ### Helpers -/

/-- Whether an outcome is a next state with a property. -/
def after (o : Host.Outcome State Fault Refusal) (p : State → Bool) : Bool :=
  match o with
  | .next t => p t
  | .fault f => nomatch f
  | .refused _ => false

/-- Whether an outcome is a given refusal. -/
def refusedAs (o : Host.Outcome State Fault Refusal) (e : Refusal) : Bool :=
  match o with
  | .next _ => false
  | .fault f => nomatch f
  | .refused r => r == e

/-- The reset state with other register contents. -/
def withRegs (f : Regs → Regs) : State := { State.reset with regs := f State.reset.regs }

/-- The reset state in `Normal` mode. -/
def normal : State := withRegs fun x => { x with mcr := 0#32 }

/-- The reset state in `Freeze` mode. -/
def frozenState : State := withRegs fun x => { x with mcr := 0x59000000#32 }

/-- Buffer 8 filled as in Scenario B, control word aside, in `Normal` mode: ID `0x123`, data `0x44332211`, `0x88776655`. -/
def buffer8 : State := storeWord 35 0x88776655#32 (storeWord 34 0x44332211#32 (storeWord 33 0x123#32 normal))

/-- The frame of Scenario C. -/
def frameC : Frame := ⟨0x321, false, 4, [1#8, 2#8, 3#8, 4#8]⟩

/-- The reset state with `IFLAG1 = 0x101`, the start of V-REG-8 to V-REG-12. -/
def flags101 : State := withRegs fun x => { x with iflag1 := 0x101#32 }

/-- A state in which every register holds a value of its own. -/
def sample : State := withRegs fun _ =>
  { mcr := 0x0F#32, ctrl1 := 1#32, rxmgmask := 2#32, rx14mask := 3#32, rx15mask := 4#32, esr1 := 5#32, imask2 := 6#32,
    imask1 := 7#32, iflag2 := 8#32, iflag1 := 9#32, ctrl2 := 10#32, rxfgmask := 11#32, fdctrl := 12#32, fdcbt := 13#32,
    fdcrc := 14#32, erfcr := 15#32, erfier := 16#32, erfsr := 17#32 }

/-- A valid parameter record other than the default: the receive slot is buffer 33 with bit 1 of group 2, and `CTRL1` is
writable in its low half only. -/
def otherRecord : Config :=
  { Config.default with
    rxSlot := 33, rxFlagGroup := 2, rxFlagBit := 1
    decl := fun r => if r = .ctrl1 then ⟨0x004#12, .overwrite, 0x0000FFFF#32, 0#32⟩ else defaultDecl r }

/-- The controller at the default record and at the other one, each on a bus and at a base address of its own. -/
def board : Assembly := ⟨Config.default, 3, 0x5000⟩

/-- A controller at the other record. -/
def otherBoard : Assembly := ⟨otherRecord, 7, 0x9000⟩

/-! ### Well-formedness -/

/-- Each check refuses an ill-formed term: a register offset, a window offset and a misaligned offset as undeclared ones,
an aligned offset as a misaligned one, and the three selectors that name an operation as refused ones. -/
theorem test_wf_refuses : [Instr.rdUndecl 0x000#12, .rdUndecl 0xC14#12, .rdUndecl 0x080#12, .rdUndecl 0x87C#12,
    .rdUndecl 0x009#12, .wrUndecl 0x030#12 1#32, .wrUndecl 0x100#12 1#32, .wrUndecl 0x00A#12 1#32, .refusedAlign .read 0x100#12,
    .refusedAlign .write 0x000#12, .refusedBus 0#2 0#12, .refusedBus 0#2 1#12, .refusedPlatform 0#2 0#12].all
    (fun i => !i.wf) = true := by decide

/-- The neighbours of those terms are well formed. -/
theorem test_wf_accepts : [Instr.rdUndecl 0x008#12, .rdUndecl 0xC18#12, .wrUndecl 0x880#12 1#32, .rdUndecl 0xFFC#12,
    .refusedAlign .read 0x101#12, .refusedBus 0#2 2#12, .refusedBus 1#2 0#12, .refusedPlatform 0#2 1#12,
    .refusedPlatform 3#2 0#12, .wrMb 511 0#32, .refusedSize .read .eight 0xFFF#12].all Instr.wf = true := by decide

/-! ### Decoding, words written out bit by bit from 30_encoding.md R90 and R94 -/

/-- Registers of the register file: class `00` or `01`, size `00`, the offset of 10_state.md R24. -/
theorem test_decode_register_file :
    decode (.bare 0b00_00_0000_0000_0000#16) = .rdMcr ∧ decode (.withData 0b01_00_0000_0000_0000#16 7#32) = .wrMcr 7#32 ∧
    decode (.bare 0b00_00_0000_0000_0100#16) = .rdCtrl1 ∧ decode (.withData 0b01_00_0000_0000_0100#16 7#32) = .wrCtrl1 7#32 ∧
    decode (.bare 0b00_00_0000_0001_0000#16) = .rdRxmgmask ∧
    decode (.withData 0b01_00_0000_0001_0000#16 7#32) = .wrRxmgmask 7#32 ∧
    decode (.bare 0b00_00_0000_0001_0100#16) = .rdRx14mask ∧
    decode (.withData 0b01_00_0000_0001_0100#16 7#32) = .wrRx14mask 7#32 ∧
    decode (.bare 0b00_00_0000_0001_1000#16) = .rdRx15mask ∧
    decode (.withData 0b01_00_0000_0001_1000#16 7#32) = .wrRx15mask 7#32 ∧
    decode (.bare 0b00_00_0000_0010_0000#16) = .rdEsr1 ∧ decode (.withData 0b01_00_0000_0010_0000#16 7#32) = .wrEsr1 7#32 := by
  decide

/-- The interrupt registers and the rest of the register file. -/
theorem test_decode_interrupt_registers :
    decode (.bare 0b00_00_0000_0010_0100#16) = .rdImask2 ∧
    decode (.withData 0b01_00_0000_0010_0100#16 7#32) = .wrImask2 7#32 ∧
    decode (.bare 0b00_00_0000_0010_1000#16) = .rdImask1 ∧
    decode (.withData 0b01_00_0000_0010_1000#16 7#32) = .wrImask1 7#32 ∧
    decode (.bare 0b00_00_0000_0010_1100#16) = .rdIflag2 ∧
    decode (.withData 0b01_00_0000_0010_1100#16 7#32) = .wrIflag2 7#32 ∧
    decode (.bare 0b00_00_0000_0011_0000#16) = .rdIflag1 ∧
    decode (.withData 0b01_00_0000_0011_0000#16 7#32) = .wrIflag1 7#32 ∧
    decode (.bare 0b00_00_0000_0011_0100#16) = .rdCtrl2 ∧ decode (.withData 0b01_00_0000_0011_0100#16 7#32) = .wrCtrl2 7#32 ∧
    decode (.bare 0b00_00_0000_0100_1000#16) = .rdRxfgmask ∧
    decode (.withData 0b01_00_0000_0100_1000#16 7#32) = .wrRxfgmask 7#32 := by decide

/-- The extension block. -/
theorem test_decode_extension :
    decode (.bare 0b00_00_1100_0000_0000#16) = .rdFdctrl ∧ decode (.withData 0b01_00_1100_0000_0000#16 7#32) = .wrFdctrl 7#32 ∧
    decode (.bare 0b00_00_1100_0000_0100#16) = .rdFdcbt ∧ decode (.withData 0b01_00_1100_0000_0100#16 7#32) = .wrFdcbt 7#32 ∧
    decode (.bare 0b00_00_1100_0000_1000#16) = .rdFdcrc ∧ decode (.withData 0b01_00_1100_0000_1000#16 7#32) = .wrFdcrc 7#32 ∧
    decode (.bare 0b00_00_1100_0000_1100#16) = .rdErfcr ∧ decode (.withData 0b01_00_1100_0000_1100#16 7#32) = .wrErfcr 7#32 ∧
    decode (.bare 0b00_00_1100_0001_0000#16) = .rdErfier ∧ decode (.withData 0b01_00_1100_0001_0000#16 7#32) = .wrErfier 7#32 ∧
    decode (.bare 0b00_00_1100_0001_0100#16) = .rdErfsr ∧ decode (.withData 0b01_00_1100_0001_0100#16 7#32) = .wrErfsr 7#32 := by
  decide

/-- The message-buffer window, one word of each of its five sub-ranges (V-DEC-8 to V-DEC-10, P4). -/
theorem test_decode_window :
    decode (.bare 0b00_00_0000_1000_0000#16) = .rdMb 0 ∧ decode (.withData 0b01_00_0001_0000_0000#16 7#32) = .wrMb 32 7#32 ∧
    decode (.bare 0b00_00_0010_0111_0000#16) = .rdMb 124 ∧ decode (.withData 0b01_00_0100_1010_0000#16 7#32) = .wrMb 264 7#32 ∧
    decode (.bare 0b00_00_1000_0000_0000#16) = .rdMb 480 ∧
    decode (.withData 0b01_00_1000_0111_1100#16 7#32) = .wrMb 511 7#32 := by decide

/-- Undeclared offsets (V-DEC-5 to V-DEC-7, V-DEC-11 to V-DEC-13). -/
theorem test_decode_undeclared :
    decode (.bare 0b00_00_0000_0000_1000#16) = .rdUndecl 0x008#12 ∧ decode (.bare 0x007C#16) = .rdUndecl 0x07C#12 ∧
    decode (.bare 0x0BFC#16) = .rdUndecl 0xBFC#12 ∧ decode (.bare 0x0FFC#16) = .rdUndecl 0xFFC#12 ∧
    decode (.bare 0x0C18#16) = .rdUndecl 0xC18#12 ∧
    decode (.withData 0b01_00_1000_1000_0000#16 7#32) = .wrUndecl 0x880#12 7#32 := by decide

/-- The bus and the platform (V-DEC-17 to V-DEC-21). -/
theorem test_decode_bus_and_platform :
    decode (.bare 0b10_00_0000_0000_0000#16) = .busAccept ∧
    decode ⟨0b10_00_0000_0000_0001#16, 9#32, frameC⟩ = .busRx frameC ∧ decode (.bare 0b11_00_0000_0000_0000#16) = .reset ∧
    decode (.bare 0x9000#16) = .refusedBus 1#2 0#12 ∧ decode (.bare 0xBFFF#16) = .refusedBus 3#2 0xFFF#12 ∧
    decode (.bare 0xC001#16) = .refusedPlatform 0#2 1#12 ∧ decode (.bare 0xFFFF#16) = .refusedPlatform 3#2 0xFFF#12 := by
  decide

/-- Refused accesses (V-DEC-14 to V-DEC-16); size comes before alignment in the table (R92). -/
theorem test_decode_refused_access :
    decode (.bare 0b00_01_0000_0000_0000#16) = .refusedSize .read .one 0x000#12 ∧
    decode (.bare 0b01_10_0001_0000_0000#16) = .refusedSize .write .two 0x100#12 ∧
    decode (.bare 0b00_11_0000_0000_0001#16) = .refusedSize .read .eight 0x001#12 ∧
    decode (.bare 0b00_00_0000_0000_0001#16) = .refusedAlign .read 0x001#12 ∧
    decode (.bare 0b01_00_0001_0000_0010#16) = .refusedAlign .write 0x102#12 ∧
    decode (.bare 0x0033#16) = .refusedAlign .read 0x033#12 := by decide

/-- Data bits above the selector reach the operand; bits above `nbits` are ignored (log 5). -/
theorem test_decode_table_word :
    decodeTableWord 16 0x4000 = some (.wrMcr 0#32) ∧ decodeTableWord 48 0x123456784100 = some (.wrMb 32 0x12345678#32) ∧
    decodeTableWord 16 0x123456784100 = some (.wrMb 32 0#32) := by decide

/-! ### One-step vectors: the register bank -/

/-- Each register reads as itself (40_register_bank.md R140). -/
theorem test_read_each : [(Instr.rdMcr, 15#32), (.rdCtrl1, 1#32), (.rdRxmgmask, 2#32), (.rdRx14mask, 3#32),
    (.rdRx15mask, 4#32), (.rdEsr1, 5#32), (.rdImask2, 6#32), (.rdImask1, 7#32), (.rdIflag2, 8#32), (.rdIflag1, 9#32),
    (.rdCtrl2, 10#32), (.rdRxfgmask, 11#32), (.rdFdctrl, 12#32), (.rdFdcbt, 13#32), (.rdFdcrc, 14#32), (.rdErfcr, 15#32),
    (.rdErfier, 16#32), (.rdErfsr, 17#32)].all
    (fun p => after (exec p.1 sample) fun t => t == { sample with reply := .word p.2 }) = true := by decide

/-- Each storage register stores the written word and nothing else (V-REG-2 to V-REG-5, V-REG-13 to V-REG-15). -/
theorem test_write_each_storage : [(Instr.wrCtrl1, Reg.ctrl1), (.wrRxmgmask, .rxmgmask), (.wrRx14mask, .rx14mask),
    (.wrRx15mask, .rx15mask), (.wrCtrl2, .ctrl2), (.wrRxfgmask, .rxfgmask), (.wrFdctrl, .fdctrl), (.wrFdcbt, .fdcbt),
    (.wrFdcrc, .fdcrc), (.wrErfcr, .erfcr), (.wrErfier, .erfier), (.wrErfsr, .erfsr)].all
    (fun p => after (exec (p.1 0xDEADBEEF#32) sample) fun t =>
      t == { sample with regs := sample.regs.set p.2 0xDEADBEEF#32 }) = true := by decide

/-- V-REG-6: a write of all ones to `ESR1` leaves zero; the bits not written stay. -/
theorem test_wr_esr1 : after (exec (.wrEsr1 4#32) sample) (fun t => t == { sample with regs := sample.regs.set .esr1 1#32 }) =
    true := by decide

/-- V-IRQ-9: unmasking a pending flag asserts the level, and it changes nothing else. -/
theorem test_wr_imask1 : after (exec (.wrImask1 0x100#32) flags101) (fun t => irq t && t.regs.imask1 == 0x100#32 &&
    t.regs.iflag1 == 0x101#32) = true ∧
    after (exec (.wrImask1 0xFE#32) flags101) (fun t => !irq t) = true := by decide

/-- V-IRQ-5: group 2 alone asserts the level. -/
theorem test_wr_imask2 : after (exec (.wrImask2 1#32) (withRegs fun x => { x with iflag2 := 1#32 }))
    (fun t => irq t && t.regs.imask2 == 1#32) = true := by decide

/-- V-REG-8: clearing bit 0 re-arms reception and keeps bit 8. -/
theorem test_wr_iflag1 : after (exec (.wrIflag1 1#32) flags101)
    (fun t => t.regs.iflag1 == 0x100#32 && canAccept Config.default t) = true := by decide

/-- V-REG-10: a 1 written to a clear flag changes nothing. -/
theorem test_wr_iflag1_clear_bit : after (exec (.wrIflag1 2#32) flags101) (fun t => t == flags101) = true := by decide

/-- V-REG-11. -/
theorem test_wr_iflag2 : after (exec (.wrIflag2 1#32) (withRegs fun x => { x with iflag2 := 3#32 }))
    (fun t => t.regs.iflag2 == 2#32) = true := by decide

/-- V-MCR-2 to V-MCR-7, V-MCR-10, V-MCR-18, V-MCR-19: the word `MCR` holds after one write in `Normal` mode. -/
theorem test_wr_mcr : [(0x00000000#32, 0x00000000#32), (0x50000000#32, 0x59000000#32), (0x40000000#32, 0x40000000#32),
    (0x10000000#32, 0x10000000#32), (0x80000000#32, 0x88100000#32), (0xD0000000#32, 0xD9100000#32),
    (0x09100000#32, 0x00000000#32), (0x0000000F#32, 0x0000000F#32), (0x24EFFFFF#32, 0x24EFFFFF#32),
    (0xF4EFFFFF#32, 0xFDFFFFFF#32)].all
    (fun p => after (exec (.wrMcr p.1) normal) fun t => t.regs.mcr == p.2) = true := by decide

/-- V-MCR-11 to V-MCR-17 and V-MCR-22: the soft reset from `Freeze`, with flags, masks and a buffer word set. -/
theorem test_wr_mcr_soft_reset : [(0x02000000#32, 0x00000000#32), (0x52000000#32, 0x00000000#32),
    (0x82000000#32, 0x88100000#32), (0xFFFFFFFF#32, 0x88100000#32), (0x7FFFFFFF#32, 0x00000000#32)].all
    (fun p => after (exec (.wrMcr p.1) (storeWord 32 0x0C080000#32 (withRegs fun x =>
        { x with mcr := 0x5900000F#32, imask1 := 0x100#32, imask2 := 1#32, iflag1 := 0x100#32, ctrl1 := 0xDEADBEEF#32 })))
      fun t => t.regs.mcr == p.2 && t.regs.imask1 == 0#32 && t.regs.imask2 == 0#32 && t.regs.esr1 == 0#32 &&
        t.regs.iflag1 == 0x100#32 && t.regs.ctrl1 == 0xDEADBEEF#32 && mb t 32 == 0x0C080000#32 && !irq t && t.sent == []) =
    true := by decide

/-- V-IRQ-1 to V-IRQ-8: the level for given masks and flags, `Disabled` as after reset. -/
theorem test_irq_level : [(0#32, 0#32, 0#32, 0#32, false), (0x100#32, 0x100#32, 0#32, 0#32, true),
    (0xFF#32, 0x100#32, 0#32, 0#32, false), (0xFFFFFFFF#32, 0#32, 0#32, 0#32, false), (0#32, 0#32, 1#32, 1#32, true),
    (1#32, 2#32, 2#32, 1#32, false), (0x80000000#32, 0x80000000#32, 0x80000000#32, 0x80000000#32, true),
    (1#32, 1#32, 0#32, 0#32, true)].all (fun v => irq (withRegs fun x =>
      { x with imask1 := v.1, iflag1 := v.2.1, imask2 := v.2.2.1, iflag2 := v.2.2.2.1 }) == v.2.2.2.2) = true := by decide

/-! ### One-step vectors: message buffers and transmission -/

/-- V-MB-3: the last word of the store reads back; its neighbour is zero. -/
theorem test_rd_mb : after (exec (.rdMb 511) (storeWord 511 0xCAFEF00D#32 normal))
      (fun t => t.reply == .word 0xCAFEF00D#32) = true ∧
    after (exec (.rdMb 510) (storeWord 511 0xCAFEF00D#32 normal)) (fun t => t.reply == .word 0#32) = true := by decide

/-- Scenario B (S-B, V-TX-1): the frame, the flag of buffer 8, the stored control word. -/
theorem test_wr_mb_transmits : after (exec (.wrMb 32 0x0C080000#32) buffer8) (fun t =>
    t.sent == [⟨0x123, false, 8, [0x11#8, 0x22#8, 0x33#8, 0x44#8, 0x55#8, 0x66#8, 0x77#8, 0x88#8]⟩] &&
    t.regs.iflag1 == 0x100#32 && t.regs.iflag2 == 0#32 && mb t 32 == 0x0C080000#32) = true := by decide

/-- V-TX-5, V-TX-6, V-TX-14, V-TX-15: no trigger by another code, in freeze, or at another word. -/
theorem test_wr_mb_only_stores :
    after (exec (.wrMb 32 0x08080000#32) buffer8) (fun t => t.sent == [] && t.regs == buffer8.regs) = true ∧
    after (exec (.wrMb 32 0x0D080000#32) buffer8) (fun t => t.sent == [] && t.regs == buffer8.regs) = true ∧
    after (exec (.wrMb 33 0x0C080000#32) buffer8) (fun t => t.sent == [] && mb t 33 == 0x0C080000#32) = true ∧
    after (exec (.wrMb 32 0x0C080000#32) frozenState) (fun t => t.sent == [] && mb t 32 == 0x0C080000#32) = true := by decide

/-- V-TX-2, V-TX-3, V-TX-12: identifier widths, the DLC clamp, unnamed bits. -/
theorem test_tx_frame :
    txFrame Config.default 0x0C230000#32 0xFABCDEF0#32 0xAABBCCDD#32 0x11223344#32 =
      ⟨0x1ABCDEF0, true, 3, [0xDD#8, 0xCC#8, 0xBB#8]⟩ ∧
    txFrame Config.default 0x0C0F0000#32 0xFFFFFFFF#32 0x03020100#32 0x07060504#32 =
      ⟨0x7FF, false, 8, [0#8, 1#8, 2#8, 3#8, 4#8, 5#8, 6#8, 7#8]⟩ ∧
    txFrame Config.default 0x8C030000#32 0xE0000123#32 0xDDCCBBAA#32 0#32 = ⟨0x123, false, 3, [0xAA#8, 0xBB#8, 0xCC#8]⟩ := by
  decide

/-- V-TX-8a to V-TX-8f: the flag of buffers 31, 32, 40, 63; none for 64 and 127. -/
theorem test_tx_flags : [(31, 0x80000000#32, 0#32), (32, 0#32, 1#32), (40, 0#32, 0x100#32), (63, 0#32, 0x80000000#32),
    (64, 0#32, 0#32), (127, 0#32, 0#32)].all (fun v => after (exec (.wrMb (bufferWord v.1 0) 0x0C010000#32) normal)
      fun t => t.regs.iflag1 == v.2.1 && t.regs.iflag2 == v.2.2 && t.sent.length == 1) = true := by decide

/-! ### One-step vectors: the bus, the controller -/

/-- Scenario C: `ACCEPT?` is true at reset, false with the flag set (V-RX-1, V-RX-10). -/
theorem test_bus_accept : after (exec .busAccept State.reset) (fun t => t.reply == .bool true) = true ∧
    after (exec .busAccept flags101) (fun t => t == { flags101 with reply := .bool false }) = true := by decide

/-- V-RX-1 to V-RX-5: the words of buffer 0. -/
theorem test_bus_rx : [(frameC, 0x00040000#32, 0x321#32, 0x04030201#32, 0#32),
    (⟨0x1ABCDEF0, true, 8, [0xDE#8, 0xAD#8, 0xBE#8, 0xEF#8, 1#8, 2#8, 3#8, 4#8]⟩, 0x00280000#32, 0x1ABCDEF0#32,
      0xEFBEADDE#32, 0x04030201#32),
    (⟨0x7FF, false, 0, []⟩, 0#32, 0x7FF#32, 0#32, 0#32), (⟨0, true, 0, []⟩, 0x00200000#32, 0#32, 0#32, 0#32)].all
    (fun v => after (exec (.busRx v.1) State.reset) fun t => mb t 0 == v.2.1 && mb t 1 == v.2.2.1 && mb t 2 == v.2.2.2.1 &&
      mb t 3 == v.2.2.2.2 && t.regs.iflag1 == 1#32 && !irq t) = true := by decide

/-- V-RX-6, V-RX-7: malformed records are clamped, masked and filled with zeros. -/
theorem test_bus_rx_malformed :
    after (exec (.busRx ⟨0xFFFFFFFF, false, 15, List.replicate 8 0xFF#8⟩) State.reset) (fun t => mb t 0 == 0x00080000#32 &&
      mb t 1 == 0x7FF#32 && mb t 2 == 0xFFFFFFFF#32 && mb t 3 == 0xFFFFFFFF#32) = true ∧
    after (exec (.busRx ⟨0x100, false, 5, [9#8, 8#8]⟩) State.reset) (fun t => mb t 0 == 0x00050000#32 &&
      mb t 1 == 0x100#32 && mb t 2 == 0x00000809#32 && mb t 3 == 0#32) = true := by decide

/-- V-RX-13: a delivery while the flag is set is refused. -/
theorem test_bus_rx_full : refusedAs (exec (.busRx frameC) flags101) .receiveWhileFull = true := by decide

/-- V-CORE-1, V-CORE-2: undeclared offsets read zero and ignore writes. -/
theorem test_undeclared : after (exec (.rdUndecl 0x880#12) sample) (fun t => t == { sample with reply := .word 0#32 }) = true ∧
    after (exec (.wrUndecl 0x880#12 0x0C080000#32) sample) (fun t => t == sample) = true := by decide

/-- V-CORE-4: a hard reset from a busy state. -/
theorem test_reset : after (exec .reset (storeWord 32 0x0C080000#32 sample)) (fun t => t == State.reset) = true := by decide

/-- 43_controller_core.md R204: each refused selector by its reason. -/
theorem test_refusals : refusedAs (exec (.refusedSize .read .one 0#12) sample) .subWordSize = true ∧
    refusedAs (exec (.refusedAlign .write 0x102#12) sample) .subWordAlign = true ∧
    refusedAs (exec (.refusedBus 0#2 2#12) sample) .noBusOperation = true ∧
    refusedAs (exec (.refusedPlatform 0#2 1#12) sample) .noPlatformOperation = true := by decide

/-! ### Steps, pseudo-operations, text -/

/-- A step takes the issued request; the next one stays. -/
theorem test_step : after (step ((State.reset.withFetchWord 16 0xC000).withFetchWord 16 0x0000)) (fun t =>
    t.reply == .word 0x88100000#32 && t.inbox == [Request.ofBits 16 0xC000]) = true ∧
    after (step State.reset) (fun t => t == State.reset) = true := by decide

/-- The pseudo-operations of 30_encoding.md R108, each by the state it leaves. -/
theorem test_pseudo : after (execAll Pseudo.freeze.expand normal) (fun t => t == frozenState) = true ∧
    after (execAll Pseudo.enable.expand State.reset) (fun t => t == normal) = true ∧
    after (execAll Pseudo.disable.expand normal) (fun t => t == State.reset) = true ∧
    after (execAll Pseudo.softReset.expand frozenState) (fun t => t == normal) = true ∧
    after (execAll Pseudo.softResetDisabled.expand frozenState) (fun t => t == State.reset) = true ∧
    after (execAll (Pseudo.w1c .iflag1 1#32).expand flags101) (fun t => t.regs.iflag1 == 0x100#32) = true ∧
    after (execAll (Pseudo.ack 33).expand (withRegs fun x => { x with iflag2 := 3#32 })) (fun t => t.regs.iflag2 == 1#32) =
      true := by decide

/-- Scenario B as the pseudo-operation `TX`. -/
theorem test_pseudo_tx : after (execAll (Pseudo.tx 8 0x0C080000#32 0x123#32 0x44332211#32 0x88776655#32).expand normal)
    (fun t => t.sent == [⟨0x123, false, 8, [0x11#8, 0x22#8, 0x33#8, 0x44#8, 0x55#8, 0x66#8, 0x77#8, 0x88#8]⟩]) = true := by
  decide

/-- A controller at base `0x5000` (10_state.md R33, R35): V-REG-2 at its address; an access of 1 byte is refused; the last
address of the region is in it and the next is not. -/
theorem test_assembly_host : after (board.step (.host .write 0#2 0x5004 0xDEADBEEF#32) State.reset)
      (fun t => t.regs.ctrl1 == 0xDEADBEEF#32) = true ∧
    refusedAs (board.step (.host .read 1#2 0x5000 0#32) State.reset) .subWordSize = true ∧
    board.offsetOf 0x5FFF = some 0xFFF#12 ∧ board.offsetOf 0x6000 = none ∧ board.offsetOf 0x4FFF = none := by decide

/-- A delivery by another bus does not reach the controller; at the other record the attached bus fills buffer 33 and sets
bit 1 of `IFLAG2`; a masked half of `CTRL1` keeps its bits (00_scope.md R7, R16). -/
theorem test_assembly_other_record : after (otherBoard.step (.deliver 3 frameC) sample) (fun t => t == sample) = true ∧
    after (otherBoard.step (.deliver 7 frameC) State.reset) (fun t => mb t 132 == 0x00040000#32 && mb t 133 == 0x321#32 &&
      t.regs.iflag2 == 2#32 && t.regs.iflag1 == 0#32) = true ∧
    after (otherBoard.step (.host .write 0#2 0x9004 0xDEADBEEF#32) sample) (fun t => t.regs.ctrl1 == 0x0000BEEF#32) = true := by
  decide

/-- The syntax of the vectors (30_encoding.md R107; Scenario B, V-CORE-1). -/
theorem test_text : instrText (.wrMb 32 0x0C080000#32) = "WR MB8.CS, 0x0C080000" ∧ instrText .rdIflag1 = "RD IFLAG1" ∧
    instrText (.rdUndecl 0x008#12) = "RD @0x008" ∧ instrText .reset = "RESET" := by decide

/-! ### Witnesses: hypotheses of the obligations, met by concrete states and operands -/

theorem witness_EncodedOperationDecodesBack : (Instr.wrMb 511 0xFFFFFFFF#32).wf = true ∧ (Instr.rdUndecl 0xFFC#12).wf = true ∧
    (Instr.refusedBus 3#2 0xFFF#12).wf = true ∧ (Instr.busRx frameC).wf = true := by decide

theorem witness_StepRunsTheDecodedOperation :
    ({ normal with inbox := [.bare 0x8000#16, .bare 0#16] } : State).inbox = .bare 0x8000#16 :: [.bare 0#16] ∧
    (Instr.wrMb 32 7#32).wf = true ∧
    ({ normal with inbox := [.withData 0x4100#16 7#32] } : State).inbox = encode (.wrMb 32 7#32) :: [] ∧ normal.inbox = [] := by
  decide

theorem witness_EveryStepTakesOneOperation : ∃ t, step { normal with inbox := [.bare 0x8000#16] } = .next t := ⟨_, rfl⟩

/-- The boundary case of the last hypothesis: a delivery with every flag but the receive flag set. -/
theorem witness_EveryOperationCompletes : isRefusedSelector (.busRx frameC) = false ∧
    (∀ f, Instr.busRx frameC = .busRx f → (withRegs fun x => { x with iflag1 := 0xFFFFFFFE#32 }).regs.iflag1.getLsbD 0 = false) :=
  ⟨rfl, fun _ _ => by decide⟩

/-- A busy state of the invariant: frozen, a byte stored, a frame sent, an operation issued. -/
theorem witness_EveryStepKeepsTheInvariant :
    Inv { frozenState with mem := [(5, 1#8)], sent := [frameC], inbox := [.bare 0#16] } ∧
    ∃ t, step { frozenState with mem := [(5, 1#8)], sent := [frameC], inbox := [.bare 0#16] } = .next t :=
  ⟨⟨by constructor <;> decide, by decide, by decide, by decide⟩, _, rfl⟩

theorem witness_ConstructionGivesTheResetState : Reg.esr1 ≠ Reg.mcr := by decide

theorem witness_HardResetReloadsEverything : Reg.erfsr ≠ Reg.mcr := by decide

theorem witness_ReadsHaveNoSideEffects : isRead (.rdMb 511) = true ∧ isRead (.rdUndecl 0x008#12) = true ∧
    isRead .rdErfsr = true := by decide

theorem witness_StorageRegisterWriteStoresTheWord : Reg.ctrl1.isStorage = true ∧ Reg.erfsr.isStorage = true := by decide

theorem witness_McrWriteStoresAndRecomputesStatus : (0xF4EFFFFF#32 : Word).getLsbD 25 = false := by decide

theorem witness_McrWriteWithSoftReset : (0x82000000#32 : Word).getLsbD 25 = true := by decide

/-- A valid record other than the default. -/
theorem witness_valid_record : otherRecord.Valid := by constructor <;> decide

theorem witness_SoftResetReloadsItsSubset : otherRecord.Valid ∧
    (0x82000000#32 : Word).getLsbD otherRecord.softrstBit = true ∧
    (∃ t, t = regWrite otherRecord .mcr 0x82000000#32 sample) ∧
    30 ∉ [otherRecord.mdisBit, otherRecord.notrdyBit, otherRecord.softrstBit, otherRecord.frzackBit, otherRecord.lpmackBit] ∧
    (Reg.iflag1 ≠ .mcr ∧ Reg.iflag1 ≠ .esr1 ∧ Reg.iflag1 ≠ .imask1 ∧ Reg.iflag1 ≠ .imask2) :=
  ⟨witness_valid_record, by decide, ⟨_, rfl⟩, by decide, by decide⟩

theorem witness_StatusEquationsAfterEveryOperation : otherRecord.Valid ∧ Reg.imask1 ≠ Reg.mcr :=
  ⟨witness_valid_record, by decide⟩

/-- Both policies, and a bit outside a mask. -/
theorem witness_MaskedStoreCombinesBitByBit : (otherRecord.decl .iflag1).policy = .w1c ∧
    (otherRecord.decl .ctrl1).policy = .overwrite ∧ (otherRecord.decl .ctrl1).wmask.getLsbD 31 = false := by decide

theorem witness_WriteMaskLaw : otherRecord.Valid ∧ Reg.ctrl1 ≠ Reg.mcr ∧
    (otherRecord.decl .ctrl1).wmask.getLsbD 16 = false ∧ (Config.default.decl .mcr).wmask.getLsbD 20 = false :=
  ⟨witness_valid_record, by decide, by decide, by decide⟩

theorem witness_RegisterWritesAreIsolated : Reg.iflag1 ≠ Reg.mcr ∧
    ¬ (Reg.mcr = .mcr ∧ (0x02000000#32 : Word).getLsbD 25 = true ∧
      (Reg.iflag1 = .esr1 ∨ Reg.iflag1 = .imask1 ∨ Reg.iflag1 = .imask2)) ∧ Reg.mcr ≠ Reg.iflag1 := by decide

theorem witness_RegisterWriteTwiceIsOnce : ∃ t, exec (Instr.write .mcr 0x82000000#32) sample = .next t := ⟨_, rfl⟩

/-- Two states that differ in a storage register, under a delivery; and a storage register changed by its write. -/
theorem witness_StorageRegistersDecideNothing :
    agreeOffStorage normal { normal with regs := { normal.regs with ctrl1 := 1#32 } } ∧
    (∀ r : Reg, r.isStorage = true → Instr.busRx frameC ≠ Instr.read r) ∧
    (∃ t, exec (.wrErfsr 1#32) normal = .next t ∧ t.regs.get .erfsr ≠ normal.regs.get .erfsr) := by
  refine ⟨⟨fun r hr => ?_, rfl, rfl, rfl, rfl⟩, fun r _ => ?_, _, rfl, by decide⟩
  · cases r <;> first | rfl | exact absurd hr (by decide)
  · cases r <;> simp [Instr.read]

/-- Both disjuncts: a write of `MCR` and a hard reset that change the mode. -/
theorem witness_OnlyMcrWriteAndResetChangeTheMode :
    (∃ t, exec (.wrMcr 0#32) State.reset = .next t ∧ mode Config.default t ≠ mode Config.default State.reset) ∧
    (∃ t, exec .reset normal = .next t ∧ mode Config.default t ≠ mode Config.default normal) :=
  ⟨⟨_, rfl, by decide⟩, ⟨_, rfl, by decide⟩⟩

/-- A triggering control word under another `MCR` word with the same `FRZACK`, and a refused delivery. -/
theorem witness_ModeGatesOnlyTransmission : (0x88100000#32 : Word).getLsbD 24 = normal.regs.mcr.getLsbD 24 ∧
    (∃ t, exec (.wrMb 32 0x0C080000#32) normal = .next t) ∧
    exec (.busRx frameC) flags101 = .refused .receiveWhileFull := ⟨by decide, ⟨_, rfl⟩, rfl⟩

/-- Each way of changing the level: an unmasking, an acknowledge, a soft reset, a transmission, a reception, a hard reset. -/
theorem witness_IrqChangesOnlyWhereListed :
    (∃ t, exec (.wrImask1 1#32) flags101 = .next t ∧ irq t ≠ irq flags101) ∧
    (∃ t, exec (.wrMcr 0x02000000#32) (withRegs fun x => { x with imask2 := 1#32, iflag2 := 1#32 }) = .next t ∧
      irq t ≠ irq (withRegs fun x => { x with imask2 := 1#32, iflag2 := 1#32 })) ∧
    (∃ t, exec (.wrMb 252 0x0C000000#32) (withRegs fun x => { x with imask2 := 0x80000000#32 }) = .next t ∧
      irq t ≠ irq (withRegs fun x => { x with imask2 := 0x80000000#32 })) ∧
    (∃ t, exec (.busRx frameC) (withRegs fun x => { x with imask1 := 1#32 }) = .next t ∧
      irq t ≠ irq (withRegs fun x => { x with imask1 := 1#32 })) ∧
    (∃ t, exec .reset (withRegs fun x => { x with imask1 := 1#32, iflag1 := 1#32 }) = .next t ∧
      irq t ≠ irq (withRegs fun x => { x with imask1 := 1#32, iflag1 := 1#32 })) := by
  refine ⟨⟨_, rfl, by decide⟩, ⟨_, rfl, by decide⟩, ⟨_, rfl, by decide⟩, ⟨_, rfl, by decide⟩, ⟨_, rfl, by decide⟩⟩

theorem witness_IrqChangesOnlyWhereListedAtEveryRecord : otherRecord.Valid ∧
    irq (regWrite otherRecord .imask1 1#32 flags101) ≠ irq flags101 ∧
    irq (mbWrite otherRecord 252 0x0C000000#32 (withRegs fun x => { x with imask2 := 0x80000000#32 })) ≠
      irq (withRegs fun x => { x with imask2 := 0x80000000#32 }) := ⟨witness_valid_record, by decide, by decide⟩

/-- Buffer 63 by a transmission, buffer 0 by a reception. -/
theorem witness_FlagsAreSetOnlyByHardwareEvents :
    (∃ t, exec (.wrMb 252 0x0C000000#32) normal = .next t ∧ bufferFlag 63 normal = false ∧ bufferFlag 63 t = true) ∧
    (∃ t, exec (.busRx frameC) normal = .next t ∧ bufferFlag 0 normal = false ∧ bufferFlag 0 t = true) :=
  ⟨⟨_, rfl, by decide, by decide⟩, ⟨_, rfl, by decide, by decide⟩⟩

/-- Buffer 8 by `WR.IFLAG1`, buffer 32 by `WR.IFLAG2`, buffer 0 by a hard reset. -/
theorem witness_FlagsAreClearedOnlyByWriteOrReset :
    (∃ t, exec (.wrIflag1 0x100#32) flags101 = .next t ∧ bufferFlag 8 flags101 = true ∧ bufferFlag 8 t = false) ∧
    (∃ t, exec (.wrIflag2 1#32) (withRegs fun x => { x with iflag2 := 1#32 }) = .next t ∧
      bufferFlag 32 (withRegs fun x => { x with iflag2 := 1#32 }) = true ∧ bufferFlag 32 t = false) ∧
    (∃ t, exec .reset flags101 = .next t ∧ bufferFlag 0 flags101 = true ∧ bufferFlag 0 t = false) :=
  ⟨⟨_, rfl, by decide, by decide⟩, ⟨_, rfl, by decide, by decide⟩, ⟨_, rfl, by decide, by decide⟩⟩

theorem witness_AcknowledgeClearsExactlyOneFlag : (32 : Nat) ≠ (31 : Fin 64).val := by decide

/-- The last word of the store, and an address on either side of its bytes. -/
theorem witness_BufferWriteStoresExactlyItsWord : Memory.wf [(0, 1#8), (2047, 255#8)] ∧
    (2043 < 4 * (511 : Fin 512).val ∨ 4 * (511 : Fin 512).val + 4 ≤ 2043) ∧ (510 : Nat) ≠ (511 : Fin 512).val := by decide

/-- Each of the three alternatives alone. -/
theorem witness_UntriggeredBufferWriteOnlyStores : (33 : Fin 512).val % 4 ≠ 0 ∧ frozenState.regs.mcr.getLsbD 24 = true ∧
    slice 0x0D080000#32 27 24 ≠ 0xC := by decide

theorem witness_TriggeringControlWordTransmits : normal.regs.mcr.getLsbD 24 = false ∧ slice 0x0C080000#32 27 24 = 0xC ∧
    State.reset.regs.mcr.getLsbD 24 = false := by decide

/-- A write that sends and one that does not. -/
theorem witness_OnlyTriggeringWritesSend :
    (∃ t, exec (.wrMb 32 0x0C080000#32) normal = .next t ∧ t.sent ≠ normal.sent) ∧
    (∃ t, exec (.wrMb 32 0x0C080000#32) frozenState = .next t ∧ t.sent = frozenState.sent) :=
  ⟨⟨_, rfl, by decide⟩, ⟨_, rfl, rfl⟩⟩

theorem witness_TransmitRoundTrip : buffer8.mem.wf ∧ buffer8.regs.mcr.getLsbD 24 = false ∧
    slice 0x0C2F0000#32 27 24 = 0xC ∧ (63 : Fin 128).val < 64 := by decide

theorem witness_TransmitRoundTripAtEveryRecord : buffer8.mem.wf ∧ frozen otherRecord buffer8 = false ∧
    slice 0x0C2F0000#32 otherRecord.codeHi otherRecord.codeLo = otherRecord.codeTxData ∧ (63 : Fin 128).val < 64 ∧
    (0 : Nat) ≠ (63 : Fin 128).val := by decide

theorem witness_TransmitFromReceiveSlotBlocksReception : normal.regs.mcr.getLsbD 24 = false ∧
    slice 0x0C000000#32 27 24 = 0xC := by decide

/-- A store whose byte 2047 is listed, every flag but the receive flag set. -/
theorem witness_DeliveryFillsTheReceiveSlot : Memory.wf [(3, 1#8), (2047, 255#8)] ∧
    (0xFFFFFFFE#32 : Word).getLsbD 0 = false := by decide

theorem witness_DeliveryWhileFullIsRefused : flags101.regs.iflag1.getLsbD 0 = true := by decide

/-- The longest legal frame and the widest identifiers. -/
theorem witness_ReceivedFrameIsRecoverable : otherRecord.Valid ∧
    Frame.Legal ⟨0x1FFFFFFF, true, 8, List.replicate 8 0xFF#8⟩ ∧ Frame.Legal ⟨0x7FF, false, 0, []⟩ :=
  ⟨witness_valid_record, by decide, by decide⟩

theorem witness_OnlyFlagWriteOrResetRearms :
    (∃ t, exec (.wrIflag1 1#32) flags101 = .next t ∧ canAccept Config.default flags101 = false ∧
      canAccept Config.default t = true) ∧
    (∃ t, exec .reset flags101 = .next t ∧ canAccept Config.default t = true) ∧
    (1#32 : Word).getLsbD Config.default.rxFlagBit = true := ⟨⟨_, rfl, by decide, by decide⟩, ⟨_, rfl, by decide⟩, by decide⟩

theorem witness_ReceiveBackpressure : ∃ t, exec (.busRx frameC) normal = .next t := ⟨_, rfl⟩

theorem witness_ReceiveBackpressureAtEveryRecord : otherRecord.Valid ∧
    (0 : Nat) ≠ 32 * (otherRecord.rxFlagGroup - 1) + otherRecord.rxFlagBit ∧
    (2#32 : Word).getLsbD otherRecord.rxFlagBit = true ∧
    (otherRecord.decl (groupFlag otherRecord.rxFlagGroup)).wmask.getLsbD otherRecord.rxFlagBit = true :=
  ⟨witness_valid_record, by decide, by decide, by decide⟩

theorem witness_UndeclaredOffsetsHoldNoState : Offset.isUndeclared 0x008#12 = true ∧
    Offset.isUndeclared 0x880#12 = true ∧ Offset.isUndeclared 0xFFC#12 = true := by decide

/-- An offset of each region. -/
theorem witness_AccessIsTheDispatcher : (0x030#12 : Offset).toNat % 4 = 0 ∧ (0x87C#12 : Offset).toNat % 4 = 0 ∧
    (0x880#12 : Offset).toNat % 4 = 0 ∧ (0xC14#12 : Offset).toNat % 4 = 0 := by decide

theorem witness_MachineIsTheAssemblyAtTheDefaultRecord : board.config = Config.default ∧
    board.request (.host .write 0#2 0x5FFC 9#32) = some (.withData 0x4FFC#16 9#32) ∧
    board.request (.query 3) = some (.bare 0x8000#16) ∧
    board.request (.deliver 3 frameC) = some ⟨0x8001#16, 0#32, frameC⟩ ∧ board.request .hardReset = some (.bare 0xC000#16) :=
  ⟨rfl, by decide, by decide, by decide, by decide⟩

/-- Two controllers of one record at different bases; the addresses on either side of the region; another bus; a step that
sends. -/
theorem witness_BaseAndBusOnlySelectEvents : board.config = (⟨Config.default, 4, 0⟩ : Assembly).config ∧
    0x4FFF < board.base ∧ board.base + board.config.regionSize ≤ 0x6000 ∧ 4 ≠ board.bus ∧
    (∃ t, board.step (.host .write 0#2 0x5100 0x0C080000#32) normal = .next t ∧ t.sent.length = 1) :=
  ⟨rfl, by decide, by decide, by decide, _, rfl, by decide⟩

/-- The other record, frozen, a byte stored and a frame sent; its receive slot filled by the step. -/
theorem witness_EveryStepKeepsTheInvariantAtEveryRecord : otherBoard.config.Valid ∧
    InvAt otherBoard.config { frozenState with mem := [(5, 1#8)], sent := [frameC] } ∧
    ∃ t, otherBoard.step (.deliver 7 frameC) { frozenState with mem := [(5, 1#8)], sent := [frameC] } = .next t :=
  ⟨witness_valid_record, ⟨by constructor <;> decide, by decide, by decide⟩, _, rfl⟩

theorem witness_ConstructionMeetsTheInvariantAtEveryRecord : otherBoard.config.Valid := witness_valid_record

end Sys2Proof.Tests
end

namespace Sys2Proof

/-! ### One case per kind of operation -/

/-- Every operation is a register read, a register write, or one of the eleven others: a property of all operations has
one case per kind, not one per register. -/
theorem Instr.byKind {motive : Instr → Prop} (read : ∀ r, motive (.read r)) (write : ∀ r V, motive (.write r V))
    (rdMb : ∀ w, motive (.rdMb w)) (wrMb : ∀ w V, motive (.wrMb w V)) (rdUndecl : ∀ off, motive (.rdUndecl off))
    (wrUndecl : ∀ off V, motive (.wrUndecl off V)) (busAccept : motive .busAccept) (busRx : ∀ f, motive (.busRx f))
    (reset : motive .reset) (refusedSize : ∀ dir size off, motive (.refusedSize dir size off))
    (refusedAlign : ∀ dir off, motive (.refusedAlign dir off))
    (refusedBus : ∀ size func, motive (.refusedBus size func))
    (refusedPlatform : ∀ size func, motive (.refusedPlatform size func)) : ∀ i, motive i
  | .rdMcr => read .mcr
  | .rdCtrl1 => read .ctrl1
  | .rdRxmgmask => read .rxmgmask
  | .rdRx14mask => read .rx14mask
  | .rdRx15mask => read .rx15mask
  | .rdEsr1 => read .esr1
  | .rdImask2 => read .imask2
  | .rdImask1 => read .imask1
  | .rdIflag2 => read .iflag2
  | .rdIflag1 => read .iflag1
  | .rdCtrl2 => read .ctrl2
  | .rdRxfgmask => read .rxfgmask
  | .rdFdctrl => read .fdctrl
  | .rdFdcbt => read .fdcbt
  | .rdFdcrc => read .fdcrc
  | .rdErfcr => read .erfcr
  | .rdErfier => read .erfier
  | .rdErfsr => read .erfsr
  | .wrMcr V => write .mcr V
  | .wrCtrl1 V => write .ctrl1 V
  | .wrRxmgmask V => write .rxmgmask V
  | .wrRx14mask V => write .rx14mask V
  | .wrRx15mask V => write .rx15mask V
  | .wrEsr1 V => write .esr1 V
  | .wrImask2 V => write .imask2 V
  | .wrImask1 V => write .imask1 V
  | .wrIflag2 V => write .iflag2 V
  | .wrIflag1 V => write .iflag1 V
  | .wrCtrl2 V => write .ctrl2 V
  | .wrRxfgmask V => write .rxfgmask V
  | .wrFdctrl V => write .fdctrl V
  | .wrFdcbt V => write .fdcbt V
  | .wrFdcrc V => write .fdcrc V
  | .wrErfcr V => write .erfcr V
  | .wrErfier V => write .erfier V
  | .wrErfsr V => write .erfsr V
  | .rdMb w => rdMb w
  | .wrMb w V => wrMb w V
  | .rdUndecl off => rdUndecl off
  | .wrUndecl off V => wrUndecl off V
  | .busAccept => busAccept
  | .busRx f => busRx f
  | .reset => reset
  | .refusedSize dir size off => refusedSize dir size off
  | .refusedAlign dir off => refusedAlign dir off
  | .refusedBus size func => refusedBus size func
  | .refusedPlatform size func => refusedPlatform size func

/-! ### Which row of the opcode table decides (30_encoding.md R92) -/

/-- A row whose mask keeps the bits from `k` up applies to the block of `2 ^ k` selectors that holds its pattern. -/
theorem OpcodeRow.applies_block (sel pattern : Sel) (kind : RowKind) (k : Nat) (hp : pattern.toNat % 2 ^ k = 0) :
    OpcodeRow.applies sel ⟨BitVec.allOnes 16 <<< k, pattern, kind⟩ = true ↔
      sel.toNat / 2 ^ k = pattern.toNat / 2 ^ k := by
  have hsel : (sel &&& BitVec.allOnes 16 <<< k).toNat = sel.toNat / 2 ^ k * 2 ^ k := by
    rw [← BitVec.shiftLeft_ushiftRight, BitVec.toNat_shiftLeft, BitVec.toNat_ushiftRight, Nat.shiftRight_eq_div_pow,
      Nat.shiftLeft_eq, Nat.mod_eq_of_lt ((Nat.div_mul_le_self _ _).trans_lt sel.isLt)]
  have hpat : pattern.toNat = pattern.toNat / 2 ^ k * 2 ^ k := (Nat.div_mul_cancel (Nat.dvd_of_mod_eq_zero hp)).symm
  have hpos : 0 < 2 ^ k := Nat.two_pow_pos k
  rw [OpcodeRow.applies, beq_iff_eq, ← BitVec.toNat_inj, hsel]
  constructor
  · intro h
    exact Nat.eq_of_mul_eq_mul_right hpos (h.trans hpat)
  · intro h
    rw [h, ← hpat]

/-- A group of rows of which one applies, every applying one of the same kind, decides that kind. -/
theorem find?_append_kind {sel : Sel} {l : List OpcodeRow} {kind : RowKind} (hex : ∃ row ∈ l, row.applies sel = true)
    (hkind : ∀ row ∈ l, row.applies sel = true → row.kind = kind) (l' : List OpcodeRow) :
    ∃ row, (l ++ l').find? (OpcodeRow.applies sel) = some row ∧ row.kind = kind := by
  obtain ⟨row, hrow⟩ := Option.isSome_iff_exists.mp (List.find?_isSome.mpr hex)
  exact ⟨row, by rw [List.find?_append, hrow, Option.some_or],
    hkind row (List.mem_of_find?_eq_some hrow) (List.find?_some hrow)⟩

/-! ### Selectors by their fields (30_encoding.md R90) -/

/-- The selector of an MMIO access of 4 bytes. -/
def accessSel (dir : Dir) (off : Offset) : Sel := fieldSel dir.cls 0b00#2 off

theorem fieldSel_toNat (cls size : BitVec 2) (off : Offset) :
    (fieldSel cls size off).toNat = 0x4000 * cls.toNat + 0x1000 * size.toNat + off.toNat := by
  show (cls ++ size ++ off).toNat = _
  rw [BitVec.toNat_append, BitVec.toNat_append, ← Nat.shiftLeft_add_eq_or_of_lt size.isLt,
    ← Nat.shiftLeft_add_eq_or_of_lt off.isLt]
  simp only [Nat.shiftLeft_eq]
  omega

/-- The first selector of the accesses in a direction (30_encoding.md R94). -/
def Dir.base : Dir → Nat
  | .read => 0x0000
  | .write => 0x4000

theorem Dir.base_inj {dir dir' : Dir} : dir.base = dir'.base ↔ dir = dir' := by
  cases dir <;> cases dir' <;> decide

theorem accessSel_toNat (dir : Dir) (off : Offset) : (accessSel dir off).toNat = dir.base + off.toNat := by
  cases dir <;> simp [accessSel, fieldSel_toNat, Dir.cls, Dir.base]

@[simp] theorem selOffset_fieldSel (cls size : BitVec 2) (off : Offset) : selOffset (fieldSel cls size off) = off := by
  apply BitVec.eq_of_toNat_eq
  simp only [selOffset, BitVec.extractLsb'_toNat, fieldSel_toNat, Nat.shiftRight_zero]
  omega

@[simp] theorem selSize_fieldSel (cls size : BitVec 2) (off : Offset) : selSize (fieldSel cls size off) = size :=
  (Laws.SelectorFields.field_bits cls size off).2.2

theorem fieldSel_getLsbD_low (cls size : BitVec 2) (off : Offset) (b : Nat) (hb : b < 12) :
    (fieldSel cls size off).getLsbD b = off.getLsbD b := by
  show (cls ++ size ++ off).getLsbD b = _
  rw [BitVec.getLsbD_append, if_pos hb]

theorem fieldSel_getLsbD_size (cls size : BitVec 2) (off : Offset) (b : Nat) (hb : b < 2) :
    (fieldSel cls size off).getLsbD (12 + b) = size.getLsbD b := by
  show (cls ++ size ++ off).getLsbD _ = _
  rw [BitVec.getLsbD_append, if_neg (by omega), Nat.add_sub_cancel_left, BitVec.getLsbD_append, if_pos hb]

@[simp] theorem selDir_fieldSel (dir : Dir) (size : BitVec 2) (off : Offset) :
    selDir (fieldSel dir.cls size off) = dir := by
  rw [selDir, (Laws.SelectorFields.field_bits _ _ _).2.1]
  cases dir <;> rfl

@[simp] theorem selSubSize_fieldSel (cls : BitVec 2) (size : SubSize) (off : Offset) :
    selSubSize (fieldSel cls size.field off) = size := by
  rw [selSubSize, fieldSel_getLsbD_size _ _ _ 0 (by decide), fieldSel_getLsbD_size _ _ _ 1 (by decide)]
  cases size <;> rfl

theorem readSel_eq_accessSel (off : Offset) : readSel off.toNat = accessSel .read off := by
  apply BitVec.eq_of_toNat_eq
  rw [accessSel_toNat, readSel, BitVec.toNat_ofNat, Dir.base]
  omega

theorem writeSel_eq_accessSel (off : Offset) : writeSel off.toNat = accessSel .write off := by
  apply BitVec.eq_of_toNat_eq
  rw [accessSel_toNat, writeSel, BitVec.toNat_ofNat, Dir.base]
  omega

/-- An offset is a multiple of 4 when its two low bits are 0 (20_memory.md R63). -/
theorem Offset.aligned_iff (off : Offset) : off.aligned = true ↔ off.getLsbD 0 = false ∧ off.getLsbD 1 = false := by
  rw [Offset.aligned, beq_iff_eq, ← BitVec.testBit_toNat, ← BitVec.testBit_toNat, Nat.testBit_eq_decide_div_mod_eq,
    Nat.testBit_eq_decide_div_mod_eq, decide_eq_false_iff_not, decide_eq_false_iff_not]
  omega

/-! ### The rows that apply to an admitted access (30_encoding.md R93 (1) to (7)) -/

/-- No refusal row applies to an access of 4 bytes at a multiple of 4: each has a 1 in a low offset bit or a size bit. -/
theorem refusalRows_skip (dir : Dir) (off : Offset) (ha : off.aligned = true) :
    ∀ row ∈ refusalRows, row.applies (accessSel dir off) = false := by
  have hbits : ∀ row ∈ refusalRows, ∃ b ∈ [0, 1, 12, 13], row.mask.getLsbD b = true ∧ row.pattern.getLsbD b = true := by
    decide
  obtain ⟨h0, h1⟩ := (Offset.aligned_iff off).mp ha
  have hsel : ∀ b ∈ [0, 1, 12, 13], (accessSel dir off).getLsbD b = false := by
    simp only [List.forall_mem_cons, accessSel]
    exact ⟨by rw [fieldSel_getLsbD_low _ _ _ 0 (by decide), h0], by rw [fieldSel_getLsbD_low _ _ _ 1 (by decide), h1],
      fieldSel_getLsbD_size _ _ _ 0 (by decide), fieldSel_getLsbD_size _ _ _ 1 (by decide), List.forall_mem_nil _⟩
  intro row hrow
  obtain ⟨b, hb, hm, hp⟩ := hbits row hrow
  exact OpcodeRow.applies_false _ _ b hm (by rw [hp, hsel b hb]; decide)

/-- No exact-offset row applies at an offset that is no register's. -/
theorem exactRows_skip (dir : Dir) (off : Offset) (hr : off.isRegister = false) :
    ∀ row ∈ registerFileRows ++ extensionRows, row.applies (accessSel dir off) = false := by
  have hexact : ∀ row ∈ registerFileRows ++ extensionRows,
      row.mask = BitVec.allOnes 16 ∧ (selOffset row.pattern).isRegister = true := by decide
  intro row hrow
  obtain ⟨hm, hp⟩ := hexact row hrow
  by_contra happ
  rw [Bool.not_eq_false, OpcodeRow.applies, hm, BitVec.and_allOnes, beq_iff_eq] at happ
  rw [← happ, accessSel, selOffset_fieldSel, hr] at hp
  exact Bool.false_ne_true hp

/-- The blocks the message-buffer window is cut into: the logarithm of the size, and the first offset. -/
def windowBlocks : List (Nat × Nat) := [(7, 0x080), (8, 0x100), (9, 0x200), (10, 0x400), (7, 0x800)]

/-- The kind of the access to a buffer word in a direction. -/
def bufferKind : Dir → RowKind
  | .read => .rdMb
  | .write => .wrMb

/-- The kind of the access to an undeclared offset in a direction. -/
def undeclaredKind : Dir → RowKind
  | .read => .rdUndecl
  | .write => .wrUndecl

/-- The row of a window block in a direction. -/
def blockRow (dir : Dir) (k a : Nat) : OpcodeRow :=
  ⟨BitVec.allOnes 16 <<< k, accessSel dir (BitVec.ofNat 12 a), bufferKind dir⟩

theorem windowRows_eq : windowRows = windowBlocks.flatMap fun p => [blockRow .read p.1 p.2, blockRow .write p.1 p.2] := by
  decide

/-- The rows of the window are the rows of its blocks. -/
theorem mem_windowRows {row : OpcodeRow} :
    row ∈ windowRows ↔ ∃ dir, ∃ p ∈ windowBlocks, row = blockRow dir p.1 p.2 := by
  simp only [windowRows_eq, List.mem_flatMap, List.mem_cons, List.not_mem_nil, or_false]
  constructor
  · rintro ⟨p, hp, h | h⟩
    · exact ⟨.read, p, hp, h⟩
    · exact ⟨.write, p, hp, h⟩
  · rintro ⟨_ | _, p, hp, h⟩
    · exact ⟨p, hp, .inl h⟩
    · exact ⟨p, hp, .inr h⟩

/-- The window is `0x080` to `0x87F` at the default record (20_memory.md R68). -/
theorem Offset.inWindow_iff (off : Offset) : off.inWindow = true ↔ 0x080 ≤ off.toNat ∧ off.toNat < 0x880 := by
  rw [Offset.inWindow, Bool.and_eq_true, decide_eq_true_iff, decide_eq_true_iff]
  rfl

/-- The blocks cover exactly the window. -/
theorem windowBlocks_cover (off : Offset) :
    (∃ p ∈ windowBlocks, off.toNat / 2 ^ p.1 = p.2 / 2 ^ p.1) ↔ off.inWindow = true := by
  simp only [Offset.inWindow_iff, windowBlocks, List.mem_cons, List.not_mem_nil, or_false, exists_eq_or_imp,
    exists_eq_left]
  omega

/-- Two selectors are in one block when their directions agree and their offsets are in one block. -/
theorem accessSel_div_iff (dir dir' : Dir) (off off' : Offset) (k : Nat) (hk : k ∈ [7, 8, 9, 10, 14]) :
    (accessSel dir off).toNat / 2 ^ k = (accessSel dir' off').toNat / 2 ^ k ↔
      dir = dir' ∧ off.toNat / 2 ^ k = off'.toNat / 2 ^ k := by
  have hbase : ∀ d : Dir, d.base = 0 ∨ d.base = 0x4000 := fun d => by cases d <;> decide
  have h := hbase dir
  have h' := hbase dir'
  rw [accessSel_toNat, accessSel_toNat, ← Dir.base_inj]
  simp only [List.mem_cons, List.not_mem_nil, or_false] at hk
  rcases hk with rfl | rfl | rfl | rfl | rfl <;> omega

/-- A block's row applies to the accesses in its direction whose offset lies in the block. -/
theorem blockRow_applies (dir dir' : Dir) (off : Offset) (p : Nat × Nat) (hp : p ∈ windowBlocks) :
    (blockRow dir' p.1 p.2).applies (accessSel dir off) = true ↔ dir = dir' ∧ off.toNat / 2 ^ p.1 = p.2 / 2 ^ p.1 := by
  have hblocks : ∀ p ∈ windowBlocks, p.1 ∈ [7, 8, 9, 10, 14] ∧ (BitVec.ofNat 12 p.2).toNat = p.2 ∧
      ∀ d ∈ [Dir.read, Dir.write], (accessSel d (BitVec.ofNat 12 p.2)).toNat % 2 ^ p.1 = 0 := by decide
  obtain ⟨hk, hoff, hmod⟩ := hblocks p hp
  rw [blockRow, OpcodeRow.applies_block _ _ _ _ (hmod dir' (by cases dir' <;> decide)), accessSel_div_iff _ _ _ _ _ hk, hoff]

/-- An access to an offset of the window is one of a buffer word (30_encoding.md R93 (4), (5)). -/
theorem windowRows_kind (dir : Dir) (off : Offset) :
    ∀ row ∈ windowRows, row.applies (accessSel dir off) = true → off.inWindow = true ∧ row.kind = bufferKind dir := by
  intro row hrow happ
  obtain ⟨dir', p, hp, rfl⟩ := mem_windowRows.mp hrow
  obtain ⟨rfl, hdiv⟩ := (blockRow_applies dir dir' off p hp).mp happ
  exact ⟨(windowBlocks_cover off).mp ⟨p, hp, hdiv⟩, rfl⟩

theorem exists_windowRow (dir : Dir) (off : Offset) (hw : off.inWindow = true) :
    ∃ row ∈ windowRows, row.applies (accessSel dir off) = true := by
  obtain ⟨p, hp, hdiv⟩ := (windowBlocks_cover off).mpr hw
  exact ⟨_, mem_windowRows.mpr ⟨dir, p, hp, rfl⟩, (blockRow_applies dir dir off p hp).mpr ⟨rfl, hdiv⟩⟩

/-- No register lies in the window (20_memory.md R68). -/
theorem isRegister_of_inWindow (off : Offset) (hw : off.inWindow = true) : off.isRegister = false := by
  have hregs : ∀ r ∈ Reg.all, (Config.default.decl r).offset.inWindow = false := by decide
  rw [Offset.isRegister, List.any_eq_false]
  intro r hr heq
  rw [beq_iff_eq] at heq
  rw [← heq, hregs r hr] at hw
  exact Bool.false_ne_true hw

/-- An admitted access to an offset that is no register's is decided by the window and default rows. -/
theorem classify_accessSel (dir : Dir) (off : Offset) (ha : off.aligned = true) (hr : off.isRegister = false)
    {row : OpcodeRow} (h : (windowRows ++ defaultRows).find? (OpcodeRow.applies (accessSel dir off)) = some row) :
    classify (accessSel dir off) = row.kind := by
  have htable : opcodeTable = refusalRows ++ ((registerFileRows ++ extensionRows) ++ (windowRows ++ defaultRows)) := by
    simp only [opcodeTable, List.append_assoc]
  rw [classify, htable, find?_skip _ _ _ (refusalRows_skip dir off ha), find?_skip _ _ _ (exactRows_skip dir off hr), h]

/-- An aligned access inside the window reads or writes a buffer word (30_encoding.md R93 (4), (5)). -/
theorem classify_buffer (dir : Dir) (off : Offset) (ha : off.aligned = true) (hw : off.inWindow = true) :
    classify (accessSel dir off) = bufferKind dir := by
  obtain ⟨row, hrow, hkind⟩ := find?_append_kind (exists_windowRow dir off hw)
    (fun row hrow happ => (windowRows_kind dir off row hrow happ).2) defaultRows
  rw [classify_accessSel dir off ha (isRegister_of_inWindow off hw) hrow, hkind]

/-- The default row of a direction. -/
def undeclaredRow (dir : Dir) : OpcodeRow := ⟨BitVec.allOnes 16 <<< 14, accessSel dir 0#12, undeclaredKind dir⟩

theorem undeclaredRow_applies (dir dir' : Dir) (off : Offset) :
    (undeclaredRow dir').applies (accessSel dir off) = true ↔ dir = dir' := by
  have hmod : (accessSel dir' 0#12).toNat % 2 ^ 14 = 0 := by cases dir' <;> decide
  have hoff : off.toNat / 2 ^ 14 = (0#12 : Offset).toNat / 2 ^ 14 :=
    (Nat.div_eq_of_lt (off.isLt.trans (by decide))).trans (by decide)
  rw [undeclaredRow, OpcodeRow.applies_block _ _ _ _ hmod, accessSel_div_iff _ _ _ _ _ (by decide), and_iff_left hoff]

/-- Among the default rows the one of its direction decides an access. -/
theorem defaultRows_find? (dir : Dir) (off : Offset) : ∃ row,
    defaultRows.find? (OpcodeRow.applies (accessSel dir off)) = some row ∧ row.kind = undeclaredKind dir := by
  have hsplit : defaultRows = [undeclaredRow .read, undeclaredRow .write] ++ defaultRows.drop 2 := by decide
  have hmem : ∀ row, row ∈ [undeclaredRow .read, undeclaredRow .write] ↔ ∃ dir', row = undeclaredRow dir' := by
    intro row
    simp only [List.mem_cons, List.not_mem_nil, or_false]
    exact ⟨fun h => h.elim (⟨.read, ·⟩) (⟨.write, ·⟩), fun ⟨dir', h⟩ => by cases dir' <;> simp [h]⟩
  rw [hsplit]
  refine find?_append_kind ⟨undeclaredRow dir, (hmem _).mpr ⟨dir, rfl⟩, (undeclaredRow_applies dir dir off).mpr rfl⟩ ?_ _
  intro row hrow happ
  obtain ⟨dir', rfl⟩ := (hmem row).mp hrow
  rw [(undeclaredRow_applies dir dir' off).mp happ]
  rfl

/-- An access to an undeclared offset (30_encoding.md R93 (6), (7)). -/
theorem classify_undeclared (dir : Dir) (off : Offset) (hu : off.isUndeclared = true) :
    classify (accessSel dir off) = undeclaredKind dir := by
  rw [Offset.isUndeclared, Bool.and_eq_true, Bool.and_eq_true, Bool.not_eq_true', Bool.not_eq_true'] at hu
  obtain ⟨⟨ha, hr⟩, hw⟩ := hu
  have hskip : ∀ row ∈ windowRows, row.applies (accessSel dir off) = false := by
    intro row hrow
    by_contra happ
    rw [Bool.not_eq_false] at happ
    exact Bool.false_ne_true (hw.symm.trans (windowRows_kind dir off row hrow happ).1)
  obtain ⟨row, hrow, hkind⟩ := defaultRows_find? dir off
  rw [classify_accessSel dir off ha hr ((find?_skip _ _ _ hskip).trans hrow), hkind]

/-! ### Selectors that name no operation (43_controller_core.md R204) -/

/-- An MMIO selector is of class `00` or `01`. -/
theorem fieldSel_dir_getLsbD_15 (dir : Dir) (size : BitVec 2) (off : Offset) :
    (fieldSel dir.cls size off).getLsbD 15 = false := by
  rw [(Laws.SelectorFields.field_bits dir.cls size off).1]
  cases dir <;> rfl

/-- A selector with known fields has just these. -/
theorem fieldSel_eq {cls size : BitVec 2} {off : Offset} {sel : Sel} (h : fieldSel cls size off = sel) :
    size = selSize sel ∧ off = selOffset sel := by
  subst h
  exact ⟨(selSize_fieldSel cls size off).symm, (selOffset_fieldSel cls size off).symm⟩

theorem classify_refusedSize (dir : Dir) (size : SubSize) (off : Offset) :
    classify (fieldSel dir.cls size.field off) = .refusedSize := by
  refine classify_size _ (fieldSel_dir_getLsbD_15 dir _ off) ?_
  rw [fieldSel_getLsbD_size _ _ _ 0 (by decide), fieldSel_getLsbD_size _ _ _ 1 (by decide)]
  cases size <;> decide

theorem classify_refusedAlign (dir : Dir) (off : Offset) (h : off.aligned = false) :
    classify (accessSel dir off) = .refusedAlign := by
  refine classify_align _ (fieldSel_dir_getLsbD_15 dir _ off) (fieldSel_getLsbD_size _ _ _ 0 (by decide))
    (fieldSel_getLsbD_size _ _ _ 1 (by decide)) ?_
  rw [accessSel, fieldSel_getLsbD_low _ _ _ 0 (by decide), fieldSel_getLsbD_low _ _ _ 1 (by decide)]
  by_contra hlow
  rw [not_or, Bool.not_eq_true, Bool.not_eq_true, ← Offset.aligned_iff, h] at hlow
  exact Bool.false_ne_true hlow

theorem classify_refusedBus (size : BitVec 2) (func : Offset) (hwf : (Instr.refusedBus size func).wf = true) :
    classify (fieldSel 0b10#2 size func) = .refusedBus := by
  obtain ⟨h15, h14, -⟩ := Laws.SelectorFields.field_bits 0b10#2 size func
  have haccept : fieldSel 0b10#2 size func ≠ 0x8000#16 := by
    intro h
    obtain ⟨rfl, rfl⟩ := fieldSel_eq h
    exact absurd hwf (by decide)
  have hrx : fieldSel 0b10#2 size func ≠ 0x8001#16 := by
    intro h
    obtain ⟨rfl, rfl⟩ := fieldSel_eq h
    exact absurd hwf (by decide)
  rw [classify_bus _ h15 h14, if_neg haccept, if_neg hrx]

theorem classify_refusedPlatform (size : BitVec 2) (func : Offset) (hwf : (Instr.refusedPlatform size func).wf = true) :
    classify (fieldSel 0b11#2 size func) = .refusedPlatform := by
  obtain ⟨h15, h14, -⟩ := Laws.SelectorFields.field_bits 0b11#2 size func
  have hreset : fieldSel 0b11#2 size func ≠ 0xC000#16 := by
    intro h
    obtain ⟨rfl, rfl⟩ := fieldSel_eq h
    exact absurd hwf (by decide)
  rw [classify_platform _ h15 h14, if_neg hreset]

/-! ### Decoding an encoded operation (30_encoding.md R90, R92, R94) -/

theorem encode_read (r : Reg) : encode (Instr.read r) = .bare (readSel (regOffset r)) := by cases r <;> rfl

theorem encode_write (r : Reg) (V : Word) : encode (Instr.write r V) = .withData (writeSel (regOffset r)) V := by
  cases r <;> rfl

theorem classify_readSel_regOffset (r : Reg) : classify (readSel (regOffset r)) = .rd r := by cases r <;> decide

theorem classify_writeSel_regOffset (r : Reg) : classify (writeSel (regOffset r)) = .wr r := by cases r <;> decide

/-- The offset of a buffer word as a selector holds it (20_memory.md R70). -/
def bufferOffset (i : Fin 512) : Offset := BitVec.ofNat 12 (wordOffset i)

theorem bufferOffset_toNat (i : Fin 512) : (bufferOffset i).toNat = 0x080 + 4 * i.val :=
  Nat.mod_eq_of_lt (show 0x080 + 4 * i.val < 2 ^ 12 by omega)

theorem encode_rdMb (i : Fin 512) : encode (.rdMb i) = .bare (accessSel .read (bufferOffset i)) := by
  rw [← readSel_eq_accessSel, bufferOffset_toNat]
  rfl

theorem encode_wrMb (i : Fin 512) (V : Word) :
    encode (.wrMb i V) = .withData (accessSel .write (bufferOffset i)) V := by
  rw [← writeSel_eq_accessSel, bufferOffset_toNat]
  rfl

theorem classify_bufferOffset (dir : Dir) (i : Fin 512) : classify (accessSel dir (bufferOffset i)) = bufferKind dir := by
  have ha : (bufferOffset i).aligned = true := by
    rw [Offset.aligned, beq_iff_eq, bufferOffset_toNat]
    omega
  have hw : (bufferOffset i).inWindow = true := by
    rw [Offset.inWindow_iff, bufferOffset_toNat]
    omega
  exact classify_buffer dir _ ha hw

theorem selIndexAt_bufferOffset (dir : Dir) (i : Fin 512) :
    selIndexAt Config.default (accessSel dir (bufferOffset i)) = i := by
  apply Fin.ext
  rw [selIndexAt, accessSel, selOffset_fieldSel, Fin.val_ofNat, bufferOffset_toNat, Machine.default_mbBase]
  omega

/-- A request decodes to the operation its row stands for. -/
theorem decode_eq_of_classify {q : Request} {kind : RowKind} {i : Instr} (hkind : classify q.sel = kind)
    (hop : operation kind q = i) : decode q = i := by
  rw [← hop, decode, hkind]

/-- Decoding the request of a well-formed operation gives the operation back. -/
theorem decode_encode (i : Instr) (hwf : i.wf = true) : decode (encode i) = i := by
  cases i using Instr.byKind with
  | read r =>
    rw [encode_read]
    exact decode_eq_of_classify (classify_readSel_regOffset r) rfl
  | write r V =>
    rw [encode_write]
    exact decode_eq_of_classify (classify_writeSel_regOffset r) rfl
  | rdMb w =>
    rw [encode_rdMb]
    exact decode_eq_of_classify (classify_bufferOffset .read w) (congrArg Instr.rdMb (selIndexAt_bufferOffset .read w))
  | wrMb w V =>
    rw [encode_wrMb]
    exact decode_eq_of_classify (classify_bufferOffset .write w)
      (congrArg (Instr.wrMb · V) (selIndexAt_bufferOffset .write w))
  | rdUndecl off =>
    exact decode_eq_of_classify (classify_undeclared .read off hwf) (congrArg Instr.rdUndecl (selOffset_fieldSel _ _ off))
  | wrUndecl off V =>
    exact decode_eq_of_classify (classify_undeclared .write off hwf)
      (congrArg (Instr.wrUndecl · V) (selOffset_fieldSel _ _ off))
  | busAccept => decide
  | busRx f => exact decode_eq_of_classify (show classify 0x8001#16 = .busRx by decide) rfl
  | reset => decide
  | refusedSize dir size off =>
    refine decode_eq_of_classify (classify_refusedSize dir size off) ?_
    show Instr.refusedSize (selDir (fieldSel dir.cls size.field off)) (selSubSize (fieldSel dir.cls size.field off))
      (selOffset (fieldSel dir.cls size.field off)) = _
    rw [selDir_fieldSel, selSubSize_fieldSel, selOffset_fieldSel]
  | refusedAlign dir off =>
    have ha : off.aligned = false := (Bool.not_eq_true' _).mp hwf
    refine decode_eq_of_classify (classify_refusedAlign dir off ha) ?_
    exact congrArg₂ Instr.refusedAlign (selDir_fieldSel dir _ off) (selOffset_fieldSel _ _ off)
  | refusedBus size func =>
    exact decode_eq_of_classify (classify_refusedBus size func hwf)
      (congrArg₂ Instr.refusedBus (selSize_fieldSel _ size func) (selOffset_fieldSel _ _ func))
  | refusedPlatform size func =>
    exact decode_eq_of_classify (classify_refusedPlatform size func hwf)
      (congrArg₂ Instr.refusedPlatform (selSize_fieldSel _ size func) (selOffset_fieldSel _ _ func))

end Sys2Proof

namespace Sys2Proof.Machine

/-! ### What a step takes from the inbox (log 1) -/

/-- A step with something issued runs the oldest request. -/
theorem step_of_inbox_cons {s : State} {q : Request} {rest : List Request} (h : s.inbox = q :: rest) :
    step s = exec (decode q) { s with inbox := rest } := by
  simp only [step, h]

/-- A step with nothing issued changes nothing (log 2). -/
theorem step_of_inbox_nil {s : State} (h : s.inbox = []) : step s = .next s := by
  simp only [step, h]

/-- No operation touches the issued operations (10_state.md R34). -/
theorem exec_inbox {i : Instr} {s t : State} (h : exec i s = .next t) : t.inbox = s.inbox := by
  rcases exec_next_cases h with ⟨r, -, rfl⟩ | ⟨r, V, -, rfl⟩ | ⟨w, -, rfl⟩ | ⟨w, V, -, rfl⟩ | ⟨off, -, rfl⟩ |
    ⟨off, V, -, rfl⟩ | ⟨-, rfl⟩ | ⟨f, -, -, rfl⟩ | ⟨-, rfl⟩
  · rfl
  · obtain ⟨-, hinbox, -, -⟩ := regWrite_frame Config.default r V s
    exact hinbox
  · rfl
  · obtain ⟨-, hinbox, -, -⟩ := mbWrite_frame Config.default w.val V s
    exact hinbox
  · rfl
  · rfl
  · rfl
  · obtain ⟨hinbox, -⟩ := deliver_frame Config.default f s
    exact hinbox
  · rfl

/-- Settles O6: a step is `exec` on the state without its oldest request, and no operation touches the rest. -/
theorem everyStepTakesOneOperation : Obligations.EveryStepTakesOneOperation := by
  intro s t q rest hinbox hstep
  rw [step_of_inbox_cons hinbox] at hstep
  exact exec_inbox hstep

/-- Settles O5: a step runs the decoded oldest request, and the request of a well-formed operation decodes to it. -/
theorem stepRunsTheDecodedOperation : Obligations.StepRunsTheDecodedOperation := by
  refine ⟨fun s q rest hinbox => step_of_inbox_cons hinbox, fun s i rest hwf hinbox => ?_,
    fun s hinbox => step_of_inbox_nil hinbox⟩
  rw [step_of_inbox_cons hinbox, decode_encode i hwf]

/-! ### The masked store, bit by bit (00_scope.md R16) -/

/-- The register a masked store leaves. -/
@[simp] theorem maskedStore_get_same (c : Config) (r : Reg) (V : Word) (s : State) :
    (maskedStore c r V s).regs.get r = combine (c.decl r).policy (c.decl r).wmask (s.regs.get r) V :=
  Regs.get_set_same _ _ _

/-- Under either policy a bit outside the mask is never altered. -/
theorem combine_getLsbD_outside_mask (p : Policy) (M o V : Word) (b : Nat) (hb : b < 32) (hM : M.getLsbD b = false) :
    (combine p M o V).getLsbD b = o.getLsbD b := by
  cases p with
  | overwrite => rw [combine_overwrite_getLsbD M o V b hb, hM, if_neg Bool.false_ne_true]
  | w1c => rw [combine_w1c_getLsbD M o V b hb, hM, Bool.and_false, Bool.not_false, Bool.and_true]

/-- Settles O24: the stored word is the policy's `combine`, whose bits are known for each policy and outside the mask. -/
theorem maskedStoreCombinesBitByBit : Obligations.MaskedStoreCombinesBitByBit := by
  intro c r V s b hb
  rw [maskedStore_get_same]
  refine ⟨fun hp => ?_, fun hp => ?_, combine_getLsbD_outside_mask _ _ _ _ b hb⟩
  · rw [hp, combine_w1c_getLsbD _ _ _ b hb]
  · rw [hp, combine_overwrite_getLsbD _ _ _ b hb]

/-! ### Every operation completes (00_scope.md R14) -/

/-- The read operation of every register (40_register_bank.md R140). -/
theorem exec_read (r : Reg) (s : State) : exec (Instr.read r) s = .next (replyWord (s.regs.get r) s) := by
  cases r <;> rfl

/-- `canAccept()` at the default record: bit 0 of `IFLAG1` is clear (42_bus_client_receive.md R190). -/
theorem canAccept_default (s : State) : canAccept Config.default s = !s.regs.iflag1.getLsbD 0 := rfl

/-- A delivery into an empty slot completes (42_bus_client_receive.md R192). -/
theorem exec_busRx_of_canAccept {s : State} (h : canAccept Config.default s = true) (f : Frame) :
    exec (.busRx f) s = .next (replyNone (deliver Config.default f s)) :=
  if_pos h

/-- Settles O7, by the kind of the operation: only the refused selectors and a delivery into a full slot do not complete. -/
theorem everyOperationCompletes : Obligations.EveryOperationCompletes := by
  intro i s hi hrx
  cases i using Instr.byKind with
  | read r => exact ⟨_, exec_read r s⟩
  | write r V => exact ⟨_, exec_write r V s⟩
  | rdMb w => exact ⟨_, rfl⟩
  | wrMb w V => exact ⟨_, rfl⟩
  | rdUndecl off => exact ⟨_, rfl⟩
  | wrUndecl off V => exact ⟨_, rfl⟩
  | busAccept => exact ⟨_, rfl⟩
  | busRx f =>
    have haccept : canAccept Config.default s = true := by rw [canAccept_default, hrx f rfl, Bool.not_false]
    exact ⟨_, exec_busRx_of_canAccept haccept f⟩
  | reset => exact ⟨_, rfl⟩
  | refusedSize dir size off => cases hi
  | refusedAlign dir off => cases hi
  | refusedBus size func => cases hi
  | refusedPlatform size func => cases hi

/-- Settles O13: each clause of `Config.Valid` is a closed fact about the default numbers. -/
theorem defaultRecordIsValid : Obligations.DefaultRecordIsValid := by
  constructor <;> decide

end Sys2Proof.Machine

namespace Sys2Proof.Machine

/-! ### What an operation that completes leaves, in five cases -/

/-- A property of the state an operation leaves has five cases: the operation only answered (the reads, the query and the
write to an undeclared offset), or it wrote a register, wrote a buffer word, delivered a frame, or reset. -/
theorem execAt_next_elim {motive : State → Prop} {c : Config} {i : Instr} {s t : State} (h : execAt c i s = .next t)
    (answer : ∀ v : Reply, motive { s with reply := v })
    (write : ∀ r V, i = Instr.write r V → motive (replyNone (regWrite c r V s)))
    (wrMb : ∀ w V, i = .wrMb w V → motive (replyNone (mbWrite c w.val V s)))
    (busRx : ∀ f, i = .busRx f → motive (replyNone (deliver c f s)))
    (reset : i = .reset → motive (replyNone (hardReset c s))) : motive t := by
  rcases execAt_next_cases h with ⟨r, -, rfl⟩ | ⟨r, V, hi, rfl⟩ | ⟨w, -, rfl⟩ | ⟨w, V, hi, rfl⟩ | ⟨off, -, rfl⟩ |
    ⟨off, V, -, rfl⟩ | ⟨-, rfl⟩ | ⟨f, hi, -, rfl⟩ | ⟨hi, rfl⟩
  · exact answer _
  · exact write r V hi
  · exact answer _
  · exact wrMb w V hi
  · exact answer _
  · exact answer _
  · exact answer _
  · exact busRx f hi
  · exact reset hi

/-- The five cases for the machine at the default record. -/
theorem exec_next_elim {motive : State → Prop} {i : Instr} {s t : State} (h : exec i s = .next t)
    (answer : ∀ v : Reply, motive { s with reply := v })
    (write : ∀ r V, i = Instr.write r V → motive (replyNone (regWrite Config.default r V s)))
    (wrMb : ∀ w V, i = .wrMb w V → motive (replyNone (mbWrite Config.default w.val V s)))
    (busRx : ∀ f, i = .busRx f → motive (replyNone (deliver Config.default f s)))
    (reset : i = .reset → motive (replyNone (hardReset Config.default s))) : motive t :=
  execAt_next_elim ((execAt_default i s).trans h) answer write wrMb busRx reset

/-! ### The invariant (10_state.md R27, R28; 00_scope.md R13) -/

/-- A valid record's reset value of `MCR` meets the status equations: R8 asks it, clause by clause. -/
theorem reset_mcr_equations {c : Config} (hc : c.Valid) : StatusEquations c (Regs.reset c).mcr :=
  ⟨hc.reset_lpmack, hc.reset_frzack, hc.reset_notrdy, hc.reset_no_softrst⟩

/-- A write of another register leaves `MCR` alone (40_register_bank.md R142). -/
theorem regWrite_mcr_of_ne (c : Config) (r : Reg) (V : Word) (s : State) (h : r ≠ .mcr) :
    (regWrite c r V s).regs.mcr = s.regs.mcr :=
  regWrite_get_other c r .mcr V s h h.symm

/-- A buffer write leaves `MCR` alone. -/
theorem mbWrite_mcr (c : Config) (i : Nat) (V : Word) (s : State) : (mbWrite c i V s).regs.mcr = s.regs.mcr := by
  obtain ⟨-, -, -, hregs⟩ := mbWrite_frame c i V s
  exact hregs .mcr (by decide) (by decide)

/-- A reception leaves every register but the two flag registers alone. -/
theorem deliver_get_other (c : Config) (f : Frame) (s : State) (r : Reg) (h1 : r ≠ .iflag1) (h2 : r ≠ .iflag2) :
    (deliver c f s).regs.get r = s.regs.get r := by
  obtain ⟨-, -, -, hregs, -⟩ := deliver_frame c f s
  rw [hregs]
  refine Regs.get_set_other _ _ _ _ ?_
  unfold groupFlag
  split
  · exact h1
  · exact h2

/-- A reception leaves `MCR` alone. -/
theorem deliver_mcr (c : Config) (f : Frame) (s : State) : (deliver c f s).regs.mcr = s.regs.mcr :=
  deliver_get_other c f s .mcr (by decide) (by decide)

/-- Settles O23: the equations hold of a valid record's reset value and after the hook of `MCR`, and the other operations
leave `MCR` alone. -/
theorem statusEquationsAfterEveryOperation : Obligations.StatusEquationsAfterEveryOperation :=
  fun c s hc => ⟨reset_mcr_equations hc, fun V => regWrite_mcr_equations c hc V s, fun r V => regWrite_mcr_of_ne c r V s,
    fun i V => mbWrite_mcr c i V s, fun f => deliver_mcr c f s⟩

/-- The store of a reception is in canonical form: the slot of a valid record lies inside the store. -/
theorem deliver_mem_wf {c : Config} (hc : c.Valid) (f : Frame) {s : State} (h : s.mem.wf) : (deliver c f s).mem.wf := by
  have hslot : c.rxSlot < 64 := hc.rxSlot_flagged
  obtain ⟨-, -, -, -, hmem⟩ := deliver_frame c f s
  rw [hmem]
  exact Memory.wf_writeWord _ _ _ (by omega) (Memory.wf_writeWord _ _ _ (by omega)
    (Memory.wf_writeWord _ _ _ (by omega) (Memory.wf_writeWord _ _ _ (by omega) h)))

/-- The status equations survive every operation: `MCR` is reset, written through its hook, or left alone. -/
theorem execAt_status {c : Config} (hc : c.Valid) {i : Instr} {s t : State} (hs : StatusEquations c s.regs.mcr)
    (h : execAt c i s = .next t) : StatusEquations c t.regs.mcr := by
  refine execAt_next_elim (motive := fun t => StatusEquations c t.regs.mcr) h ?answer ?write ?wrMb ?busRx ?reset
  case answer => exact fun _ => hs
  case write =>
    intro r V _
    by_cases hr : r = .mcr
    · subst hr
      exact regWrite_mcr_equations c hc V s
    · rwa [replyNone_regs, regWrite_mcr_of_ne c r V s hr]
  case wrMb =>
    intro w V _
    rwa [replyNone_regs, mbWrite_mcr]
  case busRx =>
    intro f _
    rwa [replyNone_regs, deliver_mcr]
  case reset => exact fun _ => reset_mcr_equations hc

/-- The canonical form of the store survives every operation (log 8). -/
theorem execAt_store {c : Config} (hc : c.Valid) {i : Instr} {s t : State} (hs : s.mem.wf)
    (h : execAt c i s = .next t) : t.mem.wf := by
  refine execAt_next_elim (motive := fun t => t.mem.wf) h ?answer ?write ?wrMb ?busRx ?reset
  case answer => exact fun _ => hs
  case write =>
    intro r V _
    obtain ⟨hmem, -⟩ := regWrite_frame c r V s
    rwa [replyNone_mem, hmem]
  case wrMb =>
    intro w V _
    obtain ⟨hmem, -⟩ := mbWrite_frame c w.val V s
    rw [replyNone_mem, hmem]
    exact Memory.wf_writeWord _ _ _ w.isLt hs
  case busRx => exact fun f _ => deliver_mem_wf hc f hs
  case reset => exact fun _ => Memory.wf_nil

/-- Every operation adds at most legal frames to those sent. -/
theorem execAt_sent_legal {c : Config} {i : Instr} {s t : State} (hs : ∀ f ∈ s.sent, f.Legal)
    (h : execAt c i s = .next t) : ∀ f ∈ t.sent, f.Legal := by
  rcases execAt_sent h with hsent | ⟨g, hg, hsent⟩ <;> rw [hsent]
  · exact hs
  · exact List.forall_mem_append.mpr ⟨hs, List.forall_mem_singleton.mpr hg⟩

/-- At a valid record every operation keeps the invariant. -/
theorem execAt_invAt {c : Config} (hc : c.Valid) {i : Instr} {s t : State} (hs : InvAt c s)
    (h : execAt c i s = .next t) : InvAt c t :=
  ⟨execAt_status hc hs.status h, execAt_store hc hs.store h, execAt_sent_legal hs.sent h⟩

/-- Settles O58: a step that completes changes nothing or runs an operation, and every operation keeps the invariant. -/
theorem everyStepKeepsTheInvariantAtEveryRecord : Obligations.EveryStepKeepsTheInvariantAtEveryRecord := by
  intro a e s t hc hs hstep
  rcases Assembly.step_next_cases hstep with rfl | ⟨i, hi⟩
  · exact hs
  · exact execAt_invAt hc hs hi

/-- Settles O59: the reset registers of a valid record, an empty store, nothing sent. -/
theorem constructionMeetsTheInvariantAtEveryRecord : Obligations.ConstructionMeetsTheInvariantAtEveryRecord :=
  fun _ hc => ⟨reset_mcr_equations hc, Memory.wf_nil, List.forall_mem_nil _⟩

/-! ### The machine's invariant is the one at the default record, and `ESR1` zero (10_state.md R28) -/

theorem inv_iff (s : State) : Inv s ↔ InvAt Config.default s ∧ s.regs.esr1 = 0#32 :=
  ⟨fun ⟨hstatus, hesr1, hstore, hsent⟩ => ⟨⟨hstatus, hstore, hsent⟩, hesr1⟩,
    fun ⟨⟨hstatus, hstore, hsent⟩, hesr1⟩ => ⟨hstatus, hesr1, hstore, hsent⟩⟩

/-- The invariant speaks of no issued operation. -/
theorem Inv.withInbox {s : State} (h : Inv s) (l : List Request) : Inv { s with inbox := l } :=
  ⟨h.status, h.esr1, h.store, h.sent⟩

/-- A register write never makes `ESR1` nonzero: its own write only clears bits, a soft reset clears it. -/
theorem regWrite_default_esr1 (r : Reg) (V : Word) {s : State} (hs : s.regs.esr1 = 0#32) :
    (regWrite Config.default r V s).regs.esr1 = 0#32 := by
  by_cases hmcr : r = .mcr
  · rw [hmcr, regWrite_mcr]
    split
    · rfl
    · exact hs
  · by_cases hesr1 : r = .esr1
    · rw [hesr1, regWrite_default_w1c .esr1 (by decide), setReg_regs, Regs.set_esr1, Regs.get_esr1, hs, BitVec.zero_and]
    · exact (regWrite_get_other _ r .esr1 V s hmcr (Ne.symm hesr1)).trans hs

/-- `ESR1` stays zero under every operation: no event of the block sets one of its bits (10_state.md R28). -/
theorem exec_esr1 {i : Instr} {s t : State} (hs : s.regs.esr1 = 0#32) (h : exec i s = .next t) :
    t.regs.esr1 = 0#32 := by
  refine exec_next_elim (motive := fun t => t.regs.esr1 = 0#32) h ?answer ?write ?wrMb ?busRx ?reset
  case answer => exact fun _ => hs
  case write => exact fun r V _ => regWrite_default_esr1 r V hs
  case wrMb =>
    intro w V _
    obtain ⟨-, -, -, hregs⟩ := mbWrite_frame Config.default w.val V s
    exact (hregs .esr1 (by decide) (by decide)).trans hs
  case busRx => exact fun f _ => (deliver_get_other _ f s .esr1 (by decide) (by decide)).trans hs
  case reset => exact fun _ => rfl

/-- Every operation of the machine keeps the invariant. -/
theorem exec_inv {i : Instr} {s t : State} (hs : Inv s) (h : exec i s = .next t) : Inv t := by
  obtain ⟨hat, hesr1⟩ := (inv_iff s).mp hs
  exact (inv_iff t).mpr ⟨execAt_invAt defaultRecordIsValid hat ((execAt_default i s).trans h), exec_esr1 hesr1 h⟩

/-- Settles O9: a step changes nothing or runs an operation without its request in `inbox`, and every operation keeps the
invariant. -/
theorem everyStepKeepsTheInvariant : Obligations.EveryStepKeepsTheInvariant := by
  intro s t hs hstep
  cases hinbox : s.inbox with
  | nil =>
    rw [step_of_inbox_nil hinbox] at hstep
    injection hstep with hst
    exact hst ▸ hs
  | cons q rest =>
    rw [step_of_inbox_cons hinbox] at hstep
    exact exec_inv (hs.withInbox rest) hstep

/-- Settles O10: the reset values meet the status equations at the default record, `ESR1` resets to zero, the store is
empty and nothing was sent. -/
theorem resetMeetsTheInvariant : Obligations.ResetMeetsTheInvariant :=
  ⟨reset_mcr_equations defaultRecordIsValid, rfl, Memory.wf_nil, List.forall_mem_nil _⟩

/-- Settles O11: the reset values of the table, and the outputs they give. -/
theorem constructionGivesTheResetState : Obligations.ConstructionGivesTheResetState := by
  refine ⟨rfl, rfl, rfl, fun r hr => ?_, fun i => Memory.readWord_nil i.val, by decide, by decide, by decide⟩
  exact (Regs.reset_get Config.default r).trans (default_reset r hr)

/-! ### The storage-only registers decide nothing (10_state.md R21) -/

/-- One update of a register in each of two states that agree off the storage-only registers; the two words may differ
where the register is storage-only. -/
theorem agreeOffStorage.setReg {s s' : State} (h : agreeOffStorage s s') (r : Reg) {v v' : Word}
    (hv : r.isStorage = false → v' = v) : agreeOffStorage (setReg r v s) (setReg r v' s') := by
  obtain ⟨hregs, hrest⟩ := h
  refine ⟨fun q hq => ?_, hrest⟩
  rw [setReg_regs, setReg_regs]
  by_cases hqr : q = r
  · subst hqr
    rw [Regs.get_set_same, Regs.get_set_same, hv hq]
  · rw [Regs.get_set_other _ _ _ _ hqr, Regs.get_set_other _ _ _ _ hqr, hregs q hq]

theorem agreeOffStorage.mcr {s s' : State} (h : agreeOffStorage s s') : s'.regs.mcr = s.regs.mcr := h.1 .mcr rfl

theorem agreeOffStorage.mem {s s' : State} (h : agreeOffStorage s s') : s'.mem = s.mem := h.2.1

/-- A flag register is not storage-only. -/
theorem groupFlag_isStorage (g : Nat) : (groupFlag g).isStorage = false := by
  unfold groupFlag
  split <;> rfl

theorem agreeOffStorage.groupFlag {s s' : State} (h : agreeOffStorage s s') (g : Nat) :
    s'.regs.get (groupFlag g) = s.regs.get (groupFlag g) :=
  h.1 _ (groupFlag_isStorage g)

theorem agreeOffStorage.canAccept {s s' : State} (h : agreeOffStorage s s') (c : Config) :
    canAccept c s' = canAccept c s := by
  simp only [Machine.canAccept, h.groupFlag]

/-- The same answer, after states that agree. -/
theorem agreeOffStorage.answer {s s' : State} (h : agreeOffStorage s s') (v : Reply) :
    agreeOffStorage { s with reply := v } { s' with reply := v } := by
  obtain ⟨hregs, hmem, hinbox, hsent, -⟩ := h
  exact ⟨hregs, hmem, hinbox, hsent, rfl⟩

theorem agreeOffStorage.storeWord {s s' : State} (h : agreeOffStorage s s') (i : Nat) (v : Word) :
    agreeOffStorage (storeWord i v s) (storeWord i v s') := by
  obtain ⟨hregs, hmem, hrest⟩ := h
  exact ⟨hregs, congrArg (Memory.writeWord · i v) hmem, hrest⟩

theorem agreeOffStorage.send {s s' : State} (h : agreeOffStorage s s') (f : Frame) :
    agreeOffStorage (send f s) (send f s') := by
  obtain ⟨hregs, hmem, hinbox, hsent, hreply⟩ := h
  exact ⟨hregs, hmem, hinbox, congrArg (· ++ [f]) hsent, hreply⟩

theorem agreeOffStorage.setGroupFlag {s s' : State} (h : agreeOffStorage s s') (g b : Nat) :
    agreeOffStorage (setGroupFlag g b s) (setGroupFlag g b s') :=
  h.setReg (Machine.groupFlag g) fun _ => congrArg (· ||| bit b) (h.groupFlag g)

theorem agreeOffStorage.setBufferFlag {s s' : State} (h : agreeOffStorage s s') (n : Nat) :
    agreeOffStorage (setBufferFlag n s) (setBufferFlag n s') := by
  unfold Machine.setBufferFlag
  split
  · exact h.setGroupFlag _ _
  · exact h

/-- A soft reset is four register updates, of words `MCR` alone decides. -/
theorem agreeOffStorage.softReset {s s' : State} (h : agreeOffStorage s s') (c : Config) :
    agreeOffStorage (softReset c s) (softReset c s') := by
  have hmcr := h.setReg .mcr fun _ => congrArg (reloadedMcr c) h.mcr
  have hesr1 := hmcr.setReg .esr1 (v := (c.decl .esr1).reset) fun _ => rfl
  have himask1 := hesr1.setReg .imask1 (v := (c.decl .imask1).reset) fun _ => rfl
  exact himask1.setReg .imask2 fun _ => rfl

theorem agreeOffStorage.mcrHook {s s' : State} (h : agreeOffStorage s s') (c : Config) :
    agreeOffStorage (mcrHook c s) (mcrHook c s') := by
  unfold Machine.mcrHook
  rw [h.mcr]
  split
  · exact (h.softReset c).setReg .mcr fun _ => congrArg (withStatus c) (h.softReset c).mcr
  · exact h.setReg .mcr fun _ => congrArg (withStatus c) h.mcr

/-- A register write combines the written word with the register's own old word, and no other storage-only word. -/
theorem agreeOffStorage.regWrite {s s' : State} (h : agreeOffStorage s s') (c : Config) (r : Reg) (V : Word) :
    agreeOffStorage (regWrite c r V s) (regWrite c r V s') := by
  have hstored : agreeOffStorage (maskedStore c r V s) (maskedStore c r V s') :=
    h.setReg r fun hr => by rw [h.1 r hr]
  unfold Machine.regWrite postWriteHook
  split
  · exact hstored.mcrHook c
  · exact hstored
  · exact hstored

/-- A buffer write reads `MCR` and the store. -/
theorem agreeOffStorage.mbWrite {s s' : State} (h : agreeOffStorage s s') (c : Config) (i : Nat) (V : Word) :
    agreeOffStorage (mbWrite c i V s) (mbWrite c i V s') := by
  have hstored := h.storeWord i V
  have htrigger : txTrigger c i V (Machine.storeWord i V s') = txTrigger c i V (Machine.storeWord i V s) := by
    simp only [txTrigger, frozen, hstored.mcr]
  have hframe : bufferFrame c (i / 4) V (Machine.storeWord i V s') = bufferFrame c (i / 4) V (Machine.storeWord i V s) := by
    simp only [bufferFrame, mb_eq, hstored.mem]
  simp only [Machine.mbWrite, htrigger, txDispatch, hframe]
  split
  · exact (hstored.send _).setBufferFlag _
  · exact hstored

theorem agreeOffStorage.deliver {s s' : State} (h : agreeOffStorage s s') (c : Config) (f : Frame) :
    agreeOffStorage (deliver c f s) (deliver c f s') :=
  ((((h.storeWord _ _).storeWord _ _).storeWord _ _).storeWord _ _).setGroupFlag _ _

/-- A hard reset leaves nothing of the registers and the store. -/
theorem agreeOffStorage.hardReset {s s' : State} (h : agreeOffStorage s s') (c : Config) :
    agreeOffStorage (hardReset c s) (hardReset c s') := by
  obtain ⟨-, -, hrest⟩ := h
  exact ⟨fun _ _ => rfl, rfl, hrest⟩

/-- A delivery into a full slot is refused (42_bus_client_receive.md R193). -/
theorem exec_busRx_of_not_canAccept {s : State} (h : canAccept Config.default s = false) (f : Frame) :
    exec (.busRx f) s = .refused .receiveWhileFull :=
  if_neg (Bool.eq_false_iff.mp h)

/-- Every operation but the read of a storage-only register does the same to states that agree off those registers. -/
theorem exec_agreeOffStorage {s s' : State} (h : agreeOffStorage s s') (i : Instr)
    (hi : ∀ r : Reg, r.isStorage = true → i ≠ Instr.read r) :
    (∃ t t' : State, exec i s = .next t ∧ exec i s' = .next t' ∧ agreeOffStorage t t') ∨
      ∃ e : Refusal, exec i s = .refused e ∧ exec i s' = .refused e := by
  cases i using Instr.byKind with
  | read r =>
    have hr : r.isStorage = false := Bool.eq_false_iff.mpr fun hr => hi r hr rfl
    refine .inl ⟨_, _, exec_read r s, exec_read r s', ?_⟩
    rw [h.1 r hr]
    exact h.answer _
  | write r V => exact .inl ⟨_, _, exec_write r V s, exec_write r V s', (h.regWrite _ r V).answer _⟩
  | rdMb w =>
    refine .inl ⟨_, _, rfl, rfl, ?_⟩
    rw [mb_eq, mb_eq, h.mem]
    exact h.answer _
  | wrMb w V => exact .inl ⟨_, _, rfl, rfl, (h.mbWrite _ _ V).answer _⟩
  | rdUndecl off => exact .inl ⟨_, _, rfl, rfl, h.answer _⟩
  | wrUndecl off V => exact .inl ⟨_, _, rfl, rfl, h.answer _⟩
  | busAccept =>
    refine .inl ⟨_, _, rfl, rfl, ?_⟩
    rw [h.canAccept]
    exact h.answer _
  | busRx f =>
    cases haccept : canAccept Config.default s with
    | true =>
      exact .inl ⟨_, _, exec_busRx_of_canAccept haccept f, exec_busRx_of_canAccept ((h.canAccept _).trans haccept) f,
        (h.deliver _ f).answer _⟩
    | false =>
      exact .inr ⟨_, exec_busRx_of_not_canAccept haccept f, exec_busRx_of_not_canAccept ((h.canAccept _).trans haccept) f⟩
  | reset => exact .inl ⟨_, _, rfl, rfl, (h.hardReset _).answer _⟩
  | refusedSize dir size off => exact .inr ⟨_, rfl, rfl⟩
  | refusedAlign dir off => exact .inr ⟨_, rfl, rfl⟩
  | refusedBus size func => exact .inr ⟨_, rfl, rfl⟩
  | refusedPlatform size func => exact .inr ⟨_, rfl, rfl⟩

/-- A register write leaves every other storage-only register alone: the soft reset reloads none of them. -/
theorem regWrite_get_storage (c : Config) (r q : Reg) (V : Word) (s : State) (hq : q.isStorage = true) (h : q ≠ r) :
    (regWrite c r V s).regs.get q = s.regs.get q := by
  have hne : ∀ r : Reg, r.isStorage = false → q ≠ r := by
    rintro r hr rfl
    exact Bool.false_ne_true (hr.symm.trans hq)
  by_cases hr : r = .mcr
  · rw [hr]
    exact regWrite_mcr_get_other c q V s (hne _ rfl) (hne _ rfl) (hne _ rfl) (hne _ rfl)
  · exact regWrite_get_other c r q V s hr h

/-- An operation that changes a storage-only register is its own write or `RESET`. -/
theorem eq_reset_or_write_of_storage_changed {i : Instr} {s t : State} {r : Reg} (hr : r.isStorage = true)
    (h : exec i s = .next t) : t.regs.get r ≠ s.regs.get r → i = .reset ∨ ∃ V : Word, i = Instr.write r V := by
  have hflag : r ≠ .iflag1 ∧ r ≠ .iflag2 := by
    constructor <;> (rintro rfl; exact Bool.false_ne_true hr)
  refine exec_next_elim (motive := fun t => t.regs.get r ≠ s.regs.get r → _) h ?answer ?write ?wrMb ?busRx ?reset
  case answer => exact fun _ hchanged => absurd rfl hchanged
  case write =>
    rintro q V rfl hchanged
    by_cases hrq : r = q
    · exact .inr ⟨V, by rw [hrq]⟩
    · exact absurd (regWrite_get_storage _ q r V s hr hrq) hchanged
  case wrMb =>
    intro w V _ hchanged
    obtain ⟨-, -, -, hregs⟩ := mbWrite_frame Config.default w.val V s
    exact absurd (hregs r hflag.1 hflag.2) hchanged
  case busRx => exact fun f _ hchanged => absurd (deliver_get_other _ f s r hflag.1 hflag.2) hchanged
  case reset => exact fun hi _ => .inl hi

/-- Settles O28: every shared operation keeps the agreement off the storage-only registers, and none but a register's own
write and the hard reset touches one. -/
theorem storageRegistersDecideNothing : Obligations.StorageRegistersDecideNothing :=
  ⟨fun i _ _ h hi => exec_agreeOffStorage h i hi, fun _ _ _ _ hr h => eq_reset_or_write_of_storage_changed hr h⟩

/-! ### What sets a flag (10_state.md R30; 60_exceptions.md R225) -/

/-- A register write sets no flag: a flag register's own write only clears bits, every other leaves the flags alone. -/
theorem bufferFlag_of_regWrite {r : Reg} {V : Word} {s : State} {n : Nat}
    (h : bufferFlag n (regWrite Config.default r V s) = true) : bufferFlag n s = true := by
  by_cases h1 : r = .iflag1
  · rw [h1, bufferFlag_wrIflag1, Bool.and_eq_true] at h
    exact h.1
  by_cases h2 : r = .iflag2
  · rw [h2, bufferFlag_wrIflag2, Bool.and_eq_true] at h
    exact h.1
  have hflag : ∀ q : Reg, q = .iflag1 ∨ q = .iflag2 → (regWrite Config.default r V s).regs.get q = s.regs.get q := by
    intro q hq
    by_cases hmcr : r = .mcr
    · rw [hmcr]
      rcases hq with rfl | rfl <;> exact regWrite_mcr_get_other _ _ _ _ (by decide) (by decide) (by decide) (by decide)
    · exact regWrite_get_other _ _ _ _ _ hmcr (by rcases hq with rfl | rfl <;> exact Ne.symm ‹_›)
  rwa [bufferFlag_congr (hflag .iflag1 (.inl rfl)) (hflag .iflag2 (.inr rfl))] at h

/-- After a hard reset no flag is set. -/
theorem bufferFlag_hardReset (n : Nat) (s : State) : bufferFlag n (hardReset Config.default s) = false := by
  have hflag : ∀ g, (Regs.reset Config.default).get (groupFlag g) = 0#32 := by
    intro g
    rw [Regs.reset_get]
    exact default_reset _ (by unfold groupFlag; split <;> decide)
  rw [bufferFlag, hardReset_regs, hflag, BitVec.getLsbD_zero, Bool.and_false]

/-- A buffer write sets no flag, or it is a triggering write of the flag's own control word. -/
theorem bufferFlag_of_mbWrite {w : Fin 512} {V : Word} {s : State} {n : Fin 128}
    (h : bufferFlag n.val (mbWrite Config.default w.val V s) = true) :
    bufferFlag n.val s = true ∨ w = bufferWord n 0 ∧ s.regs.mcr.getLsbD 24 = false ∧ slice V 27 24 = 0xC := by
  rcases mbWrite_cases Config.default w.val V s with ⟨-, hw⟩ | ⟨htrigger, hw⟩ <;> rw [hw] at h
  · exact .inl h
  · obtain ⟨hcontrol, hfrz, hcode⟩ := (txTrigger_default_iff _ _ _).mp htrigger
    obtain ⟨m, hm, hval⟩ := bufferWord_of_control w hcontrol
    rw [bufferFlag_setBufferFlag, Bool.or_eq_true, Bool.and_eq_true, decide_eq_true_iff] at h
    rcases h with h | ⟨hn, -⟩
    · exact .inl h
    · have hnm : n = m := Fin.ext (by omega)
      exact .inr ⟨hnm ▸ hm, hfrz, hcode⟩

/-- Settles O36: a register write and the hard reset set no flag, a buffer write sets its own when it triggers, a reception
sets that of buffer 0. -/
theorem flagsAreSetOnlyByHardwareEvents : Obligations.FlagsAreSetOnlyByHardwareEvents := by
  intro i s t n h hclear
  have hnot : ¬ bufferFlag n.val s = true := Bool.eq_false_iff.mp hclear
  refine exec_next_elim (motive := fun t => bufferFlag n.val t = true → _) h ?answer ?write ?wrMb ?busRx ?reset
  case answer => exact fun _ hset => absurd hset hnot
  case write => exact fun r V _ hset => absurd (bufferFlag_of_regWrite hset) hnot
  case wrMb =>
    rintro w V rfl hset
    obtain ⟨hw, hfrz, hcode⟩ := (bufferFlag_of_mbWrite hset).resolve_left hnot
    exact .inl ⟨V, by rw [hw], hfrz, hcode⟩
  case busRx =>
    intro f hi hset
    have hdeliver : bufferFlag n.val (deliver Config.default f s) = true := hset
    rw [bufferFlag_deliver, hclear, Bool.false_or, decide_eq_true_iff] at hdeliver
    exact .inr ⟨hdeliver, f, hi⟩
  case reset => exact fun _ hset => absurd hset (Bool.eq_false_iff.mp (bufferFlag_hardReset n.val s))

end Sys2Proof.Machine

namespace Sys2Proof

/-! ### The opcode table is the operation map of R93 (30_encoding.md R92, R93) -/

/-- A selector is the one with its fields (30_encoding.md R90). -/
theorem fieldSel_selFields (sel : Sel) : fieldSel (selClass sel) (selSize sel) (selOffset sel) = sel := by
  apply BitVec.eq_of_toNat_eq
  simp only [fieldSel_toNat, selClass, selSize, selOffset, BitVec.extractLsb'_toNat, Nat.shiftRight_eq_div_pow]
  omega

@[simp] theorem selClass_fieldSel (cls size : BitVec 2) (off : Offset) : selClass (fieldSel cls size off) = cls := by
  apply BitVec.eq_of_toNat_eq
  simp only [selClass, fieldSel_toNat, BitVec.extractLsb'_toNat, Nat.shiftRight_eq_div_pow]
  omega

theorem Dir.cls_ne_bus (dir : Dir) : dir.cls ≠ 0b10#2 := by cases dir <;> decide

theorem Dir.cls_ne_platform (dir : Dir) : dir.cls ≠ 0b11#2 := by cases dir <;> decide

/-- The kind of an admitted access, by what its offset designates (30_encoding.md R93 (2) to (7)). -/
def accessKind : Dir → Machine.Region → RowKind
  | .read, .reg r => .rd r
  | .write, .reg r => .wr r
  | .read, .buffer _ => .rdMb
  | .write, .buffer _ => .wrMb
  | .read, .undeclared => .rdUndecl
  | .write, .undeclared => .wrUndecl

/-- The operation map on an MMIO selector of a refused size (R93 (1)). -/
theorem operationMap_of_size (c : Config) (dir : Dir) {size : BitVec 2} (off : Offset) (h : size ≠ 0b00#2) :
    Machine.operationMap c (fieldSel dir.cls size off) = .refusedSize := by
  rw [Machine.operationMap, selClass_fieldSel, if_neg dir.cls_ne_bus, if_neg dir.cls_ne_platform,
    selSize_fieldSel, if_pos h]

/-- The operation map on an MMIO access of 4 bytes (R93 (1) to (7)). -/
theorem operationMap_accessSel (c : Config) (dir : Dir) (off : Offset) :
    Machine.operationMap c (accessSel dir off) =
      if off.toNat % 4 ≠ 0 then .refusedAlign else accessKind dir (Machine.region c off) := by
  have hsize : selSize (accessSel dir off) = 0b00#2 := selSize_fieldSel _ _ off
  have hoff : selOffset (accessSel dir off) = off := selOffset_fieldSel _ _ off
  have hdir : selDir (accessSel dir off) = dir := selDir_fieldSel dir _ off
  have hcls : selClass (accessSel dir off) = dir.cls := selClass_fieldSel _ _ off
  rw [Machine.operationMap, hcls, if_neg dir.cls_ne_bus, if_neg dir.cls_ne_platform, hsize,
    if_neg (not_not.mpr rfl), hoff, hdir]
  rfl

theorem region_register (r : Reg) : Machine.region Config.default (Config.default.decl r).offset = .reg r := by
  cases r <;> decide

theorem registerAt_of_not_isRegister (off : Offset) (h : off.isRegister = false) :
    Machine.registerAt Config.default off = .undeclared := by
  rw [Machine.registerAt, List.find?_eq_none.mpr (List.any_eq_false.mp h)]

/-- An offset of the window designates a buffer word (20_memory.md R69). -/
theorem region_of_inWindow (off : Offset) (hw : off.inWindow = true) :
    Machine.region Config.default off = .buffer (Fin.ofNat 512 ((off.toNat - 0x080) / 4)) := by
  have h : 0x080 ≤ off.toNat ∧ off.toNat < 0x880 := (Offset.inWindow_iff off).mp hw
  have hlow : ¬ off.toNat ≤ 0x7C := by omega
  exact (if_neg hlow).trans (if_pos h)

/-- An offset of no register and outside the window designates nothing (20_memory.md R69). -/
theorem region_of_undeclared (off : Offset) (hr : off.isRegister = false) (hw : off.inWindow = false) :
    Machine.region Config.default off = .undeclared := by
  have hwindow : ¬ (Config.default.mbBase ≤ off.toNat ∧ off.toNat < Config.default.mbBase + 16 * mbCount) :=
    fun h => Bool.false_ne_true (hw.symm.trans ((Offset.inWindow_iff off).mpr h))
  rw [Machine.region, if_neg hwindow, registerAt_of_not_isRegister off hr, ite_self, ite_self]

/-- The offset of a declared register is one of the table's. -/
theorem exists_reg_of_isRegister (off : Offset) (h : off.isRegister = true) :
    ∃ r : Reg, (Config.default.decl r).offset = off := by
  obtain ⟨r, -, hr⟩ := List.any_eq_true.mp h
  exact ⟨r, beq_iff_eq.mp hr⟩

theorem classify_register (dir : Dir) (r : Reg) :
    classify (accessSel dir (Config.default.decl r).offset) = accessKind dir (.reg r) := by
  cases dir with
  | read => rw [← readSel_eq_accessSel]; exact classify_readSel_regOffset r
  | write => rw [← writeSel_eq_accessSel]; exact classify_writeSel_regOffset r

/-- The table decides an aligned access by what its offset designates. -/
theorem classify_aligned (dir : Dir) (off : Offset) (ha : off.aligned = true) :
    classify (accessSel dir off) = accessKind dir (Machine.region Config.default off) := by
  cases hr : off.isRegister with
  | true =>
    obtain ⟨r, rfl⟩ := exists_reg_of_isRegister off hr
    rw [classify_register, region_register]
  | false =>
    cases hw : off.inWindow with
    | true =>
      rw [classify_buffer dir off ha hw, region_of_inWindow off hw]
      cases dir <;> rfl
    | false =>
      have hu : off.isUndeclared = true := by rw [Offset.isUndeclared, ha, hr, hw]; rfl
      rw [classify_undeclared dir off hu, region_of_undeclared off hr hw]
      cases dir <;> rfl

/-- The table and the operation map agree on every MMIO selector. -/
theorem classify_mmio (dir : Dir) (size : BitVec 2) (off : Offset) :
    classify (fieldSel dir.cls size off) = Machine.operationMap Config.default (fieldSel dir.cls size off) := by
  by_cases hsize : size = 0b00#2
  · subst hsize
    rw [← accessSel, operationMap_accessSel]
    split
    · rename_i h
      exact classify_refusedAlign dir off (beq_eq_false_iff_ne.mpr h)
    · rename_i h
      exact classify_aligned dir off (beq_iff_eq.mpr (not_not.mp h))
  · rw [operationMap_of_size _ _ _ hsize]
    have hsub : ∀ size : BitVec 2, size ≠ 0b00#2 →
        size = SubSize.one.field ∨ size = SubSize.two.field ∨ size = SubSize.eight.field := by decide
    rcases hsub size hsize with rfl | rfl | rfl <;> exact classify_refusedSize dir _ off

/-- The table and the operation map agree on every selector (30_encoding.md R92, R93). -/
theorem classify_eq_operationMap (sel : Sel) : classify sel = Machine.operationMap Config.default sel := by
  have hcls : ∀ cls : BitVec 2, cls = Dir.read.cls ∨ cls = Dir.write.cls ∨ cls = 0b10#2 ∨ cls = 0b11#2 := by decide
  rw [← fieldSel_selFields sel]
  obtain ⟨h15, h14, -⟩ := Laws.SelectorFields.field_bits (selClass sel) (selSize sel) (selOffset sel)
  rcases hcls (selClass sel) with h | h | h | h <;> rw [h] at h15 h14 ⊢
  · exact classify_mmio .read _ _
  · exact classify_mmio .write _ _
  · rw [classify_bus _ h15 h14, Machine.operationMap, selClass_fieldSel, if_pos rfl]
  · rw [classify_platform _ h15 h14, Machine.operationMap, selClass_fieldSel, if_neg (show ¬ 0b11#2 = 0b10#2 by decide),
      if_pos rfl]

end Sys2Proof

namespace Sys2Proof.Machine

/-! ### The assembly at the default record (10_state.md R35) -/

/-- `decode` is the decoder at the default record. -/
theorem decodeAt_default (q : Request) : decodeAt Config.default q = decode q := by
  rw [decodeAt, ← classify_eq_operationMap, decode, operation]

/-- Settles O56: `exec` and `decode` are `execAt` and `decodeAt` at the default record, and a step takes the request it was
given from `inbox`. -/
theorem machineIsTheAssemblyAtTheDefaultRecord : Obligations.MachineIsTheAssemblyAtTheDefaultRecord := by
  intro a e q s hconfig hrequest
  have hstep : a.step e s = exec (decode q) s := by
    rw [a.step_of_some e q s hrequest, hconfig, decodeAt_default, execAt_default]
  exact ⟨hstep, (step_of_inbox_cons rfl).trans hstep.symm⟩

/-! ### What the base address and the bus decide (10_state.md R33, R35) -/

/-- An address given by its distance from the base has the same offset at every base. -/
theorem Assembly.offsetOf_base_add {a b : Assembly} (h : a.config = b.config) (off : Nat) :
    a.offsetOf (a.base + off) = b.offsetOf (b.base + off) := by
  by_cases hoff : off < a.config.regionSize
  · rw [a.offsetOf_inside off hoff, b.offsetOf_inside off (h ▸ hoff)]
  · rw [a.offsetOf_outside _ (by omega), b.offsetOf_outside _ (by rw [← h]; omega)]

/-- Two assemblies of one record to which their events present the same request take the same step. -/
theorem Assembly.step_congr {a b : Assembly} (h : a.config = b.config) {e e' : Event} (s : State)
    (hrequest : a.request e = b.request e') : a.step e s = b.step e' s := by
  rw [Assembly.step, Assembly.step, hrequest, h]

/-- A step that completes makes no `send` call or one, of a legal frame. -/
theorem Assembly.step_sent {a : Assembly} {e : Event} {s t : State} (h : a.step e s = .next t) :
    t.sent = s.sent ∨ ∃ f : Frame, f.Legal ∧ t.sent = s.sent ++ [f] := by
  rcases Assembly.step_next_cases h with rfl | ⟨i, hi⟩
  · exact .inl rfl
  · exact execAt_sent hi

/-- Settles O57: the step depends on the base and the bus only through the request presented, and `transmitted` names the
attached bus on every frame sent. -/
theorem baseAndBusOnlySelectEvents : Obligations.BaseAndBusOnlySelectEvents := by
  refine ⟨fun a b dir size off V f s h => ⟨?_, ?_, ?_, ?_⟩, fun a dir size addr V s h => ?_, fun a k f s h => ⟨?_, ?_⟩,
    fun a e s t h => ?_⟩
  · exact Assembly.step_congr h s (by rw [Assembly.request, Assembly.offsetOf_base_add h, Assembly.request])
  · exact Assembly.step_congr h s (by rw [Assembly.request, if_pos rfl, Assembly.request, if_pos rfl])
  · exact Assembly.step_congr h s (by rw [Assembly.request, if_pos rfl, Assembly.request, if_pos rfl])
  · exact Assembly.step_congr h s rfl
  · exact a.step_of_none _ s (by rw [Assembly.request, a.offsetOf_outside addr h, Option.map_none])
  · exact a.step_of_none _ s (if_neg h)
  · exact a.step_of_none _ s (if_neg h)
  · rcases Assembly.step_sent h with hsent | ⟨f, hf, hsent⟩
    · exact .inl (by rw [Assembly.transmitted, hsent, Assembly.transmitted])
    · exact .inr ⟨f, hf, by rw [Assembly.transmitted, hsent, List.map_append, Assembly.transmitted]; rfl⟩

/-! ### Undeclared offsets (43_controller_core.md R202, R203) -/

/-- Settles O54: the selectors are those of the encoded operations, and both meanings leave the state but for the reply. -/
theorem undeclaredOffsetsHoldNoState : Obligations.UndeclaredOffsetsHoldNoState :=
  fun off V _ => ⟨fun hu => ⟨decode_encode (.rdUndecl off) hu, decode_encode (.wrUndecl off V) hu⟩, rfl, rfl⟩

end Sys2Proof.Machine

namespace Sys2Proof.Machine

/-! ### A register write repeated at once (20_memory.md R67; 40_register_bank.md R122) -/

/-- Under either policy, combining the same written word again changes nothing. -/
theorem combine_idem (p : Policy) (M o V : Word) : combine p M (combine p M o V) V = combine p M o V := by
  refine BitVec.eq_of_getLsbD_eq fun b hb => ?_
  cases p with
  | overwrite =>
    simp only [combine_overwrite_getLsbD _ _ _ b hb]
    split <;> rfl
  | w1c => simp only [combine_w1c_getLsbD _ _ _ b hb, Bool.and_assoc, Bool.and_self]

/-- The later of two writes of one register stands. -/
@[simp] theorem setReg_setReg (r : Reg) (v w : Word) (s : State) : setReg r w (setReg r v s) = setReg r w s := by
  simp only [setReg, Regs.set_set]

/-- The masked store repeated with the same word changes nothing. -/
theorem maskedStore_idem (c : Config) (r : Reg) (V : Word) (s : State) :
    maskedStore c r V (maskedStore c r V s) = maskedStore c r V s := by
  simp only [maskedStore, preWriteHook, setReg_setReg, setReg_regs, Regs.get_set_same, combine_idem]

/-- Bit `b` is none of the three status bits of `MCR` (10_state.md R25). -/
def OffStatus (c : Config) (b : Nat) : Prop := b ≠ c.notrdyBit ∧ b ≠ c.frzackBit ∧ b ≠ c.lpmackBit

/-- The recomputation of the status bits leaves every other bit alone. -/
theorem withStatus_getLsbD_offStatus (c : Config) (m : Word) {b : Nat} (hb : b < 32) (h : OffStatus c b) :
    (withStatus c m).getLsbD b = m.getLsbD b := by
  obtain ⟨hnotrdy, hfrzack, hlpmack⟩ := h
  rw [withStatus_getLsbD c m b hb, if_neg hnotrdy, if_neg hfrzack, if_neg hlpmack]

/-- The old status bits do not enter the recomputation: words that agree off them become one. -/
theorem withStatus_congr {c : Config} (hc : c.Valid) {m m' : Word}
    (h : ∀ b < 32, OffStatus c b → m.getLsbD b = m'.getLsbD b) : withStatus c m = withStatus c m' := by
  obtain ⟨⟨-, -, a1, -, a2, a3⟩, ⟨-, b1, -, b2, b3⟩, ⟨c1, -, c2, c3⟩, -⟩ := hc.mcr_positions
  obtain ⟨hm, hf, hh, -⟩ := hc.mcr_inside
  have hmdis : m.getLsbD c.mdisBit = m'.getLsbD c.mdisBit := h _ hm ⟨a1, a2, a3⟩
  have hfreeze : freezeRequested c m = freezeRequested c m' := by
    unfold freezeRequested
    rw [h _ hh ⟨c1, c2, c3⟩, h _ hf ⟨b1, b2, b3⟩]
  refine BitVec.eq_of_getLsbD_eq fun b hb => ?_
  rw [withStatus_getLsbD c m b hb, withStatus_getLsbD c m' b hb, hmdis, hfreeze]
  split_ifs with hnotrdy hfrzack hlpmack
  · rfl
  · rfl
  · rfl
  · exact h b hb ⟨hnotrdy, hfrzack, hlpmack⟩

/-- Without a soft reset, the `MCR` word a write leaves is the one its repetition leaves. -/
theorem withStatus_storedMcr_idem {c : Config} (hc : c.Valid) (V o : Word) :
    withStatus c (storedMcr c V (withStatus c (storedMcr c V o))) = withStatus c (storedMcr c V o) := by
  refine withStatus_congr hc fun b hb hoff => ?_
  obtain ⟨hpolicy, -⟩ := hc.control_overwrites
  simp only [storedMcr, hpolicy, combine_overwrite_getLsbD _ _ _ b hb, withStatus_getLsbD_offStatus c _ hb hoff]
  split <;> rfl

/-- After a soft reset the `MCR` word does not depend on the one before the write: off the status bits the reload keeps
`MDIS` alone, which is the written one. -/
theorem withStatus_reloadedMcr_storedMcr {c : Config} (hc : c.Valid) (V o o' : Word) :
    withStatus c (reloadedMcr c (storedMcr c V o)) = withStatus c (reloadedMcr c (storedMcr c V o')) := by
  refine withStatus_congr hc fun b hb ⟨hnotrdy, hfrzack, hlpmack⟩ => ?_
  obtain ⟨-, hmdis, -⟩ := storedMcr_control c hc V o
  obtain ⟨-, hmdis', -⟩ := storedMcr_control c hc V o'
  rw [reloadedMcr_getLsbD c _ b hb, reloadedMcr_getLsbD c _ b hb]
  split_ifs with hsoftrst hpreserved
  · rfl
  · have hkept : b = c.mdisBit := by simpa [hnotrdy, hsoftrst, hfrzack, hlpmack] using hpreserved
    rw [hkept, hmdis, hmdis']
  · rfl

/-- `WR.MCR` without `SOFTRST` stores the combined word with its status bits recomputed, and nothing else. -/
theorem regWrite_mcr_of_softrst_clear {c : Config} (hc : c.Valid) {V : Word} (hV : V.getLsbD c.softrstBit = false)
    (s : State) : regWrite c .mcr V s = setReg .mcr (withStatus c (storedMcr c V s.regs.mcr)) s := by
  obtain ⟨hsoftrst, -⟩ := storedMcr_control c hc V s.regs.mcr
  rw [regWrite_mcr, if_neg (by rw [hsoftrst, hV]; exact Bool.false_ne_true)]
  rfl

/-- `WR.MCR` with `SOFTRST` is a soft reset around the combined word, with the status bits recomputed last. -/
theorem regWrite_mcr_of_softrst_set {c : Config} (hc : c.Valid) {V : Word} (hV : V.getLsbD c.softrstBit = true)
    (s : State) : regWrite c .mcr V s =
      setReg .mcr (withStatus c (reloadedMcr c (storedMcr c V s.regs.mcr))) (softReset c s) := by
  obtain ⟨hsoftrst, -⟩ := storedMcr_control c hc V s.regs.mcr
  rw [regWrite_mcr, if_pos (by rw [hsoftrst, hV])]
  rfl

/-- A soft reset of a state that one has left, up to its `MCR` word, changes only that word. -/
theorem setReg_softReset_idem (c : Config) (v w : Word) (s : State) :
    setReg .mcr w (softReset c (setReg .mcr v (softReset c s))) = setReg .mcr w (softReset c s) := rfl

/-- `WR.MCR` repeated with the same word changes nothing, the soft reset included. -/
theorem regWrite_mcr_idem {c : Config} (hc : c.Valid) (V : Word) (s : State) :
    regWrite c .mcr V (regWrite c .mcr V s) = regWrite c .mcr V s := by
  cases hV : V.getLsbD c.softrstBit with
  | false =>
    simp only [regWrite_mcr_of_softrst_clear hc hV, setReg_setReg, setReg_regs, Regs.set_mcr,
      withStatus_storedMcr_idem hc]
  | true =>
    simp only [regWrite_mcr_of_softrst_set hc hV, setReg_softReset_idem]
    rw [withStatus_reloadedMcr_storedMcr hc V _ s.regs.mcr]

/-- A write of any declared register repeated with the same word changes nothing, at every valid record. -/
theorem regWrite_idem {c : Config} (hc : c.Valid) (r : Reg) (V : Word) (s : State) :
    regWrite c r V (regWrite c r V s) = regWrite c r V s := by
  by_cases hr : r = .mcr
  · subst hr
    exact regWrite_mcr_idem hc V s
  · simp only [regWrite_of_ne_mcr c r V _ hr, maskedStore_idem]

/-- A register write does not read the reply. -/
theorem regWrite_replyNone (c : Config) (r : Reg) (V : Word) (s : State) :
    regWrite c r V (replyNone s) = replyNone (regWrite c r V s) := by
  by_cases hr : r = .mcr
  · subst hr
    rw [regWrite_mcr, regWrite_mcr, replyNone_regs]
    split <;> rfl
  · rw [regWrite_of_ne_mcr c r V _ hr, regWrite_of_ne_mcr c r V _ hr]
    rfl

/-- Settles O27: the register write is idempotent at every valid record, the default one among them. -/
theorem registerWriteTwiceIsOnce : Obligations.RegisterWriteTwiceIsOnce := by
  intro r V s t h
  rw [exec_write] at h
  injection h with h
  subst h
  rw [exec_write, regWrite_replyNone, regWrite_idem defaultRecordIsValid]
  rfl

/-! ### What an operation sends (20_memory.md R66; 41_message_buffer_store.md R172, R174) -/

/-- No operation but a buffer write makes a `send` call. -/
theorem exec_sent_of_ne_wrMb {i : Instr} {s t : State} (h : exec i s = .next t) (hi : ∀ w V, i ≠ .wrMb w V) :
    t.sent = s.sent := by
  refine exec_next_elim (motive := fun t => t.sent = s.sent) h ?answer ?write ?wrMb ?busRx ?reset
  case answer => exact fun _ => rfl
  case write =>
    intro r V _
    obtain ⟨-, -, hsent, -⟩ := regWrite_frame Config.default r V s
    exact hsent
  case wrMb => exact fun w V hw => absurd hw (hi w V)
  case busRx =>
    intro f _
    obtain ⟨-, hsent, -⟩ := deliver_frame Config.default f s
    exact hsent
  case reset => exact fun _ => rfl

/-- A buffer write sends one legal frame if it triggers, and none otherwise (41_message_buffer_store.md R171 to R174). -/
theorem mbWrite_sent (c : Config) (i : Nat) (V : Word) (s : State) :
    (txTrigger c i V s = false ∧ (mbWrite c i V s).sent = s.sent) ∨
      (txTrigger c i V s = true ∧ ∃ f : Frame, (mbWrite c i V s).sent = s.sent ++ [f] ∧ f.Legal) := by
  rcases mbWrite_cases c i V s with ⟨htrigger, hw⟩ | ⟨htrigger, hw⟩ <;> rw [hw]
  · exact .inl ⟨htrigger, rfl⟩
  · refine .inr ⟨htrigger, bufferFrame c (i / 4) V (storeWord i V s), ?_, txFrame_legal ..⟩
    rw [setBufferFlag_sent, send_sent, storeWord_sent]

/-- Settles O43: only a buffer write can send, and it sends exactly when it triggers. -/
theorem onlyTriggeringWritesSend : Obligations.OnlyTriggeringWritesSend := by
  intro i s t h
  by_cases hi : ∃ w V, i = .wrMb w V
  · obtain ⟨w, V, rfl⟩ := hi
    injection h with h
    subst h
    rcases mbWrite_sent Config.default w.val V s with ⟨htrigger, hsent⟩ | ⟨htrigger, f, hsent, hlegal⟩
    · refine .inl ⟨hsent, ?_⟩
      rintro ⟨w', V', hw, htrigger'⟩
      injection hw with hw hV
      rw [← hw, ← hV, htrigger] at htrigger'
      exact Bool.false_ne_true htrigger'
    · obtain ⟨hcontrol, hfrz, hcode⟩ := (txTrigger_default_iff _ _ _).mp htrigger
      obtain ⟨n, rfl, -⟩ := bufferWord_of_control w hcontrol
      exact .inr ⟨⟨f, hsent, hlegal⟩, n, V, rfl, hfrz, hcode⟩
  · refine .inl ⟨exec_sent_of_ne_wrMb h fun w V hw => hi ⟨w, V, hw⟩, ?_⟩
    rintro ⟨w, V, hw, -⟩
    exact hi ⟨w, V, hw⟩

/-! ### Reads (20_memory.md R65) -/

/-- The write of a declared register is no read. -/
theorem isRead_write (r : Reg) (V : Word) : isRead (Instr.write r V) = false := by cases r <;> rfl

/-- Settles O15, by the kind of the operation: the word a read returns comes from the registers, from the store or is zero,
and the reply it leaves is in none of them. -/
theorem readsHaveNoSideEffects : Obligations.ReadsHaveNoSideEffects := by
  intro i s hi
  cases i using Instr.byKind with
  | read r => exact ⟨s.regs.get r, exec_read r s, exec_read r _⟩
  | write r V => exact absurd hi (by rw [isRead_write]; exact Bool.false_ne_true)
  | rdMb w => exact ⟨mb s w.val, rfl, rfl⟩
  | wrMb w V => cases hi
  | rdUndecl off => exact ⟨0#32, rfl, rfl⟩
  | wrUndecl off V => cases hi
  | busAccept => cases hi
  | busRx f => cases hi
  | reset => cases hi
  | refusedSize dir size off => cases hi
  | refusedAlign dir off => cases hi
  | refusedBus size func => cases hi
  | refusedPlatform size func => cases hi

end Sys2Proof.Machine

namespace Sys2Proof

/-- Settles O1: the decoder undoes the encoder on every kind of operation. -/
theorem encodedOperationDecodesBack : Obligations.EncodedOperationDecodesBack := decode_encode

/-! ### Every selector is the selector of a well-formed term (30_encoding.md R90, R93) -/

theorem Instr.wf_read (r : Reg) : (Instr.read r).wf = true := by cases r <;> rfl

theorem Instr.wf_write (r : Reg) (V : Word) : (Instr.write r V).wf = true := by cases r <;> rfl

/-- An aligned offset of the window is the offset of a buffer word (20_memory.md R70). -/
theorem exists_bufferOffset (off : Offset) (ha : off.aligned = true) (hw : off.inWindow = true) :
    ∃ i : Fin 512, bufferOffset i = off := by
  obtain ⟨hlow, hhigh⟩ := (Offset.inWindow_iff off).mp hw
  rw [Offset.aligned, beq_iff_eq] at ha
  refine ⟨⟨(off.toNat - 0x080) / 4, by omega⟩, BitVec.eq_of_toNat_eq ?_⟩
  rw [bufferOffset_toNat]
  show 0x080 + 4 * ((off.toNat - 0x080) / 4) = off.toNat
  omega

/-- An aligned access is a register's, a buffer word's or an undeclared offset's, in its direction. -/
theorem exists_wf_aligned (dir : Dir) (off : Offset) (ha : off.aligned = true) :
    ∃ i : Instr, i.wf = true ∧ (encode i).sel = accessSel dir off := by
  cases hr : off.isRegister with
  | true =>
    obtain ⟨r, rfl⟩ := exists_reg_of_isRegister off hr
    cases dir with
    | read => exact ⟨.read r, Instr.wf_read r, by rw [encode_read, ← readSel_eq_accessSel]; rfl⟩
    | write => exact ⟨.write r 0#32, Instr.wf_write r 0#32, by rw [encode_write, ← writeSel_eq_accessSel]; rfl⟩
  | false =>
    cases hw : off.inWindow with
    | true =>
      obtain ⟨w, rfl⟩ := exists_bufferOffset off ha hw
      cases dir with
      | read => exact ⟨.rdMb w, rfl, by rw [encode_rdMb]; rfl⟩
      | write => exact ⟨.wrMb w 0#32, rfl, by rw [encode_wrMb]; rfl⟩
    | false =>
      have hu : off.isUndeclared = true := by rw [Offset.isUndeclared, ha, hr, hw]; rfl
      cases dir with
      | read => exact ⟨.rdUndecl off, hu, rfl⟩
      | write => exact ⟨.wrUndecl off 0#32, hu, rfl⟩

/-- An MMIO selector is refused for its size or its alignment, or is an aligned access of 4 bytes. -/
theorem exists_wf_mmio (dir : Dir) (size : BitVec 2) (off : Offset) :
    ∃ i : Instr, i.wf = true ∧ (encode i).sel = fieldSel dir.cls size off := by
  have hsize : ∀ size : BitVec 2, size = 0b00#2 ∨ ∃ sub ∈ [SubSize.one, .two, .eight], size = sub.field := by decide
  rcases hsize size with rfl | ⟨sub, -, rfl⟩
  · cases ha : off.aligned with
    | true => exact exists_wf_aligned dir off ha
    | false => exact ⟨.refusedAlign dir off, (Bool.not_eq_true' _).mpr ha, rfl⟩
  · exact ⟨.refusedSize dir sub off, rfl, rfl⟩

/-- A selector of class `10` is refused, or is the query or the delivery. -/
theorem exists_wf_bus (size : BitVec 2) (func : Offset) :
    ∃ i : Instr, i.wf = true ∧ (encode i).sel = fieldSel 0b10#2 size func := by
  cases hwf : (Instr.refusedBus size func).wf with
  | true => exact ⟨.refusedBus size func, hwf, rfl⟩
  | false =>
    simp only [Instr.wf, Bool.not_eq_false', Bool.and_eq_true, Bool.or_eq_true, beq_iff_eq] at hwf
    obtain ⟨rfl, rfl | rfl⟩ := hwf
    · exact ⟨.busAccept, rfl, by decide⟩
    · exact ⟨.busRx .empty, rfl, by decide⟩

/-- A selector of class `11` is refused, or is the hard reset. -/
theorem exists_wf_platform (size : BitVec 2) (func : Offset) :
    ∃ i : Instr, i.wf = true ∧ (encode i).sel = fieldSel 0b11#2 size func := by
  cases hwf : (Instr.refusedPlatform size func).wf with
  | true => exact ⟨.refusedPlatform size func, hwf, rfl⟩
  | false =>
    simp only [Instr.wf, Bool.not_eq_false', Bool.and_eq_true, beq_iff_eq] at hwf
    obtain ⟨rfl, rfl⟩ := hwf
    exact ⟨.reset, rfl, by decide⟩

/-- The encoder reaches every selector from a well-formed term. -/
theorem exists_wf_encode_sel (sel : Sel) : ∃ i : Instr, i.wf = true ∧ (encode i).sel = sel := by
  have hcls : ∀ cls : BitVec 2, cls = Dir.read.cls ∨ cls = Dir.write.cls ∨ cls = 0b10#2 ∨ cls = 0b11#2 := by decide
  rw [← fieldSel_selFields sel]
  rcases hcls (selClass sel) with h | h | h | h <;> rw [h]
  · exact exists_wf_mmio .read _ _
  · exact exists_wf_mmio .write _ _
  · exact exists_wf_bus _ _
  · exact exists_wf_platform _ _

/-- The operands beside the selector decide neither whether the operation of a row is well formed nor its selector. -/
theorem operation_wf_sel_congr {q q' : Request} (h : q.sel = q'.sel) (kind : RowKind) :
    (operation kind q).wf = (operation kind q').wf ∧
      (encode (operation kind q)).sel = (encode (operation kind q')).sel := by
  obtain ⟨sel, V, f⟩ := q
  subst h
  cases kind with
  | wr r => cases r <;> exact ⟨rfl, rfl⟩
  | _ => exact ⟨rfl, rfl⟩

/-- Settles O2: the selector is that of a well-formed term, to which its own request decodes, and the operands of a request
do not change what is claimed. -/
theorem decodedOperationKeepsItsSelector : Obligations.DecodedOperationKeepsItsSelector := by
  intro q
  obtain ⟨i, hwf, hsel⟩ := exists_wf_encode_sel q.sel
  have hi : operation (classify q.sel) (encode i) = i := by rw [← hsel]; exact decode_encode i hwf
  obtain ⟨hwf', hsel'⟩ := operation_wf_sel_congr hsel (classify q.sel)
  rw [hi] at hwf' hsel'
  exact ⟨hwf'.symm.trans hwf, hsel'.symm.trans hsel⟩

/-! ### Some row applies to every selector (30_encoding.md R92) -/

/-- The table is total: it has a default row for each class. -/
theorem exists_opcodeRow_applies (sel : Sel) : ∃ row ∈ opcodeTable, row.applies sel = true := by
  have hdefault : ∀ cls : BitVec 2, ∃ row ∈ opcodeTable, row.mask = BitVec.allOnes 16 <<< 14 ∧
      row.pattern.toNat % 2 ^ 14 = 0 ∧ row.pattern.toNat / 2 ^ 14 = cls.toNat := by decide
  obtain ⟨⟨mask, pattern, kind⟩, hrow, rfl, hmod, hdiv⟩ := hdefault (selClass sel)
  refine ⟨_, hrow, (OpcodeRow.applies_block sel pattern kind 14 hmod).mpr ?_⟩
  rw [hdiv, selClass, BitVec.extractLsb'_toNat, Nat.shiftRight_eq_div_pow]
  omega

/-- Settles O3: each class has its default row, and the first row that applies is the one the operation map gives. -/
theorem opcodeTableIsTheOperationMap : Obligations.OpcodeTableIsTheOperationMap :=
  fun sel => ⟨exists_opcodeRow_applies sel, classify_eq_operationMap sel⟩

/-- Settles O4: each selector written out is that of the request of its operation, and decodes back to it. -/
theorem documentedSelectorsDecode : Obligations.DocumentedSelectorsDecode :=
  ⟨decode_encode .rdMcr rfl, decode_encode (.wrMcr 5#32) rfl, decode_encode .rdIflag1 rfl,
    decode_encode (.wrErfsr 3#32) rfl, decode_encode (.rdUndecl 0xC18#12) rfl, decode_encode (.rdMb 0) rfl,
    decode_encode (.wrMb 511 9#32) rfl, decode_encode (.wrUndecl 0x880#12 9#32) rfl,
    decode_encode (.refusedSize .read .one 0x000#12) rfl, decode_encode (.refusedSize .write .two 0x100#12) rfl,
    decode_encode (.refusedAlign .write 0x102#12) rfl, decode_encode .busAccept rfl,
    decode_encode (.busRx ⟨0x321, false, 1, [7#8]⟩) rfl, decode_encode (.refusedBus 0#2 2#12) rfl,
    decode_encode .reset rfl, decode_encode (.refusedPlatform 3#2 0xFFF#12) rfl⟩

end Sys2Proof

namespace Sys2Proof.Machine

/-! ### Acknowledging one flag (30_encoding.md R108; 70_reset_and_hazards.md R262) -/

/-- `ACK n` completes, clears the flag of buffer `n`, and keeps every other. -/
theorem execAll_ack (n : Fin 64) (s : State) : ∃ t : State, execAll (Pseudo.ack n).expand s = .next t ∧
    ∀ k : Nat, bufferFlag k t = (bufferFlag k s && !decide (k = n.val)) := by
  by_cases hn : n.val < 32
  · refine ⟨replyNone (regWrite Config.default .iflag1 (bit n.val) s), by rw [Pseudo.expand, if_pos hn]; rfl, fun k => ?_⟩
    have hbit : (decide (k < 32) && (bit n.val).getLsbD k) = decide (k = n.val) := by
      rw [bit_getLsbD, ← Bool.and_assoc, Bool.and_self, ← Bool.decide_and, decide_eq_decide]
      omega
    exact (bufferFlag_wrIflag1 _ s k).trans (by rw [hbit])
  · refine ⟨replyNone (regWrite Config.default .iflag2 (bit (n.val - 32)) s), by rw [Pseudo.expand, if_neg hn]; rfl,
      fun k => ?_⟩
    have hbit : (decide (32 ≤ k) && (bit (n.val - 32)).getLsbD (k - 32)) = decide (k = n.val) := by
      rw [bit_getLsbD, ← Bool.decide_and, ← Bool.decide_and, decide_eq_decide]
      omega
    exact (bufferFlag_wrIflag2 _ s k).trans (by rw [hbit])

/-- A write to `IFLAG1` of the word read with any bits added leaves no flag. -/
theorem regWrite_iflag1_readBack (m : Word) (s : State) :
    (regWrite Config.default .iflag1 (s.regs.iflag1 ||| m) s).regs.iflag1 = 0#32 := by
  rw [regWrite_default_w1c .iflag1 (.inl rfl)]
  show s.regs.iflag1 &&& ~~~(s.regs.iflag1 ||| m) = 0#32
  rw [BitVec.not_or, ← BitVec.and_assoc, BitVec.and_not_self]
  exact BitVec.zero_and

/-- Settles O38: `ACK n` writes a 1 to the bit of buffer `n` alone, a read-modify-write to every bit that is set. -/
theorem acknowledgeClearsExactlyOneFlag : Obligations.AcknowledgeClearsExactlyOneFlag := by
  refine ⟨fun n s => ?_, fun m s => ⟨_, rfl, regWrite_iflag1_readBack m s⟩⟩
  obtain ⟨t, ht, hflags⟩ := execAll_ack n s
  refine ⟨t, ht, ?_, fun k hk => ?_⟩
  · rw [hflags, decide_eq_true rfl, Bool.not_true, Bool.and_false]
  · rw [hflags, decide_eq_false hk, Bool.not_false, Bool.and_true]

/-! ### A frame through the words of its reception (30_encoding.md R102, R103) -/

/-- The bits of a field (00_scope.md R11). -/
theorem slice_testBit (v : Word) (hi lo j : Nat) :
    (slice v hi lo).testBit j = (decide (j < hi + 1 - lo) && v.getLsbD (lo + j)) := by
  rw [slice, Nat.testBit_mod_two_pow, Nat.testBit_div_two_pow, Nat.add_comm j lo, BitVec.testBit_toNat]

/-- A clamped data length fits four bits. -/
theorem clampDlc_testBit_of_le {dlc j : Nat} (hj : 4 ≤ j) : (clampDlc dlc).testBit j = false :=
  Nat.testBit_lt_two_pow (calc
    clampDlc dlc ≤ 8 := Nat.min_le_right _ _
    _ < 2 ^ 4 := by decide
    _ ≤ 2 ^ j := Nat.pow_le_pow_right (by decide) hj)

/-- The bits of the deposited control word. -/
theorem rxCtrl_getLsbD (c : Config) (f : Frame) (b : Nat) (hb : b < 32) : (rxCtrl c f).getLsbD b =
    ((f.ext && decide (b = c.ideBit)) || (decide (c.dlcLo ≤ b) && (clampDlc f.dlc).testBit (b - c.dlcLo))) := by
  have hide : (if f.ext then bit c.ideBit else 0#32).getLsbD b = (f.ext && decide (b = c.ideBit)) := by
    cases f.ext
    · exact BitVec.getLsbD_zero
    · rw [if_pos rfl, bit_getLsbD, decide_eq_true hb]
  have hdlc : (BitVec.ofNat 32 (clampDlc f.dlc) <<< c.dlcLo).getLsbD b =
      (decide (c.dlcLo ≤ b) && (clampDlc f.dlc).testBit (b - c.dlcLo)) := by
    have hlt : b - c.dlcLo < 32 := by omega
    rw [BitVec.getLsbD_shiftLeft, BitVec.getLsbD_ofNat, decide_eq_true hb, decide_eq_true hlt, Bool.true_and, Bool.true_and,
      ← decide_not, decide_eq_decide.mpr Nat.not_lt]
  rw [rxCtrl, BitVec.getLsbD_or, hide, hdlc]

/-- The `IDE` bit deposited is the extended flag of the frame. -/
theorem rxCtrl_ide {c : Config} (hc : c.Valid) (f : Frame) : (rxCtrl c f).getLsbD c.ideBit = f.ext := by
  obtain ⟨-, -, hide, -⟩ := hc.buffer_bits_inside
  obtain ⟨-, hapart, -⟩ := hc.ide_apart
  have hwidth := hc.dlc_width
  have hdlc : (decide (c.dlcLo ≤ c.ideBit) && (clampDlc f.dlc).testBit (c.ideBit - c.dlcLo)) = false := by
    rcases hapart with h | h
    · rw [decide_eq_false (by omega), Bool.false_and]
    · rw [clampDlc_testBit_of_le (by omega), Bool.and_false]
  rw [rxCtrl_getLsbD c f _ hide, hdlc, decide_eq_true rfl, Bool.and_true, Bool.or_false]

/-- The `DLC` field deposited is the clamped data length of the frame. -/
theorem slice_rxCtrl_dlc {c : Config} (hc : c.Valid) (f : Frame) :
    slice (rxCtrl c f) c.dlcHi c.dlcLo = clampDlc f.dlc := by
  obtain ⟨-, hinside, -, -⟩ := hc.buffer_bits_inside
  obtain ⟨-, hapart, -⟩ := hc.ide_apart
  have hwidth := hc.dlc_width
  refine Nat.eq_of_testBit_eq fun j => ?_
  rw [slice_testBit]
  by_cases hj : j < 4
  · rw [decide_eq_true (by omega), rxCtrl_getLsbD c f _ (by omega), decide_eq_false (by omega), decide_eq_true (by omega),
      Nat.add_sub_cancel_left, Bool.and_false, Bool.false_or, Bool.true_and, Bool.true_and]
  · rw [decide_eq_false (by omega), Bool.false_and, clampDlc_testBit_of_le (by omega)]

/-- The identifier read back from the deposited ID word is the frame's, masked to its format's width. -/
theorem idField_rxId (f : Frame) : idField f.ext (rxId f) = if f.ext then f.id % 2 ^ 29 else f.id % 2 ^ 11 := by
  rw [idField, rxId]
  cases f.ext <;> simp only [slice, Bool.false_eq_true, if_true, if_false, BitVec.toNat_ofNat] <;> omega

/-- Byte `j` of the word packed from four successive bytes (20_memory.md R61). -/
theorem wordByte_packBytes_at (b : Nat → Byte) (i j : Nat) (hj : j < 4) :
    wordByte (packBytes (b i) (b (i + 1)) (b (i + 2)) (b (i + 3))) j = b (i + j) := by
  obtain ⟨h0, h1, h2, h3⟩ := wordByte_packBytes (b i) (b (i + 1)) (b (i + 2)) (b (i + 3))
  interval_cases j <;> assumption

/-- The data bytes read back from the deposited data words are the deposited ones. -/
theorem dataByte_rxData (f : Frame) (k : Nat) (hk : k < 8) : dataByte (rxData0 f) (rxData1 f) k = rxByte f k := by
  have hmod : k % 4 < 4 := Nat.mod_lt _ (by decide)
  rw [dataByte]
  split
  · exact (wordByte_packBytes_at (rxByte f) 0 _ hmod).trans (congrArg (rxByte f) (by omega))
  · exact (wordByte_packBytes_at (rxByte f) 4 _ hmod).trans (congrArg (rxByte f) (by omega))

/-- The frame assembled from the words any reception deposits: the frame as the block clamps it
(60_exceptions.md R222). -/
theorem txFrame_rx {c : Config} (hc : c.Valid) (f : Frame) :
    txFrame c (rxCtrl c f) (rxId f) (rxData0 f) (rxData1 f) =
      ⟨if f.ext then f.id % 2 ^ 29 else f.id % 2 ^ 11, f.ext, clampDlc f.dlc,
        (List.range (clampDlc f.dlc)).map (rxByte f)⟩ := by
  have hclamp : clampDlc (clampDlc f.dlc) = clampDlc f.dlc := Nat.min_eq_left (Nat.min_le_right _ _)
  have hdata : (List.range (clampDlc f.dlc)).map (dataByte (rxData0 f) (rxData1 f)) =
      (List.range (clampDlc f.dlc)).map (rxByte f) :=
    List.map_congr_left fun k hk =>
      dataByte_rxData f k ((List.mem_range.mp hk).trans_le (Nat.min_le_right _ _))
  rw [txFrame, rxCtrl_ide hc, slice_rxCtrl_dlc hc, idField_rxId, hclamp, hdata]

/-- The bytes deposited for a frame with exactly its data bytes are these. -/
theorem map_rxByte (f : Frame) (hdlc : f.dlc ≤ 8) (hdata : f.data.length = f.dlc) :
    (List.range f.dlc).map (rxByte f) = f.data := by
  refine List.ext_getElem (by rw [List.length_map, List.length_range, hdata]) fun k _ hk => ?_
  have hlt : k < clampDlc f.dlc := by rwa [clampDlc, Nat.min_eq_left hdlc, ← hdata]
  rw [List.getElem_map, List.getElem_range, rxByte, if_pos hlt, List.getD_eq_getElem _ _ hk]

/-- Settles O50: the reception and the assembly change a frame only by the clamp, and a legal frame is its own clamp. -/
theorem receivedFrameIsRecoverable : Obligations.ReceivedFrameIsRecoverable := by
  intro c f hc ⟨hdlc, hdata, hid⟩
  have hclamp : clampDlc f.dlc = f.dlc := Nat.min_eq_left hdlc
  have hmask : (if f.ext then f.id % 2 ^ 29 else f.id % 2 ^ 11) = f.id := by
    split_ifs at hid ⊢ <;> exact Nat.mod_eq_of_lt hid
  rw [txFrame_rx hc, hclamp, hmask, map_rxByte f hdlc hdata]

end Sys2Proof.Machine

namespace Sys2Proof.Machine

/-! ### Reads and writes of the registers that have no storing hook (40_register_bank.md R120, R140, R144) -/

/-- Settles O14: the read operation of every register answers its word. -/
theorem registerReadReturnsTheRegister : Obligations.RegisterReadReturnsTheRegister := exec_read

/-- A storage-only register is none of the six that decide something (10_state.md R21). -/
theorem ne_of_isStorage {r q : Reg} (hr : r.isStorage = true) (hq : q.isStorage = false) : r ≠ q := by
  rintro rfl
  exact Bool.false_ne_true (hq.symm.trans hr)

/-- The write operation of an overwrite register other than `MCR` stores the written word. -/
theorem exec_write_overwrite (r : Reg) (h : r ≠ .mcr) (h' : r ≠ .esr1 ∧ r ≠ .iflag1 ∧ r ≠ .iflag2) (V : Word)
    (s : State) : exec (Instr.write r V) s = .next (replyNone (setReg r V s)) := by
  rw [exec_write, regWrite_default_overwrite r h h']

/-- The write operation of a write-1-to-clear register clears the bits written 1. -/
theorem exec_write_w1c (r : Reg) (h : r = .iflag1 ∨ r = .iflag2 ∨ r = .esr1) (V : Word) (s : State) :
    exec (Instr.write r V) s = .next (replyNone (setReg r (s.regs.get r &&& ~~~V) s)) := by
  rw [exec_write, regWrite_default_w1c r h]

/-- Settles O16: a storage-only register is neither `MCR` nor write-1-to-clear. -/
theorem storageRegisterWriteStoresTheWord : Obligations.StorageRegisterWriteStoresTheWord := fun r V s hr =>
  have hne {q : Reg} (hq : q.isStorage = false) : r ≠ q := ne_of_isStorage hr hq
  exec_write_overwrite r (hne rfl) ⟨hne rfl, hne rfl, hne rfl⟩ V s

/-- Settles O17: `ESR1` is write-1-to-clear under a full mask. -/
theorem errorStatusWriteClearsBits : Obligations.ErrorStatusWriteClearsBits :=
  exec_write_w1c .esr1 (.inr (.inr rfl))

/-- Settles O18: both flag registers are write-1-to-clear, and `canAccept` reads bit 0 of `IFLAG1` alone. -/
theorem flagWriteClearsFlags : Obligations.FlagWriteClearsFlags := by
  intro V s
  refine ⟨⟨_, exec_write_w1c .iflag1 (.inl rfl) V s, rfl, ?_⟩,
    ⟨_, exec_write_w1c .iflag2 (.inr (.inl rfl)) V s, rfl, rfl⟩⟩
  show (!(s.regs.iflag1 &&& ~~~V).getLsbD 0) = (V.getLsbD 0 || !s.regs.iflag1.getLsbD 0)
  rw [BitVec.getLsbD_and, BitVec.getLsbD_not, Bool.not_and, Bool.or_comm]
  simp only [Nat.zero_lt_succ, decide_true, Bool.true_and, Bool.not_not]

/-- The IRQ level is high when some flag of either group is set and enabled (60_exceptions.md R224). -/
theorem irq_eq_true_iff (s : State) : irq s = true ↔
    s.regs.imask1 &&& s.regs.iflag1 ≠ 0#32 ∨ s.regs.imask2 &&& s.regs.iflag2 ≠ 0#32 := by
  rw [irq, bne_iff_ne, Ne, BitVec.or_eq_zero_iff, not_and_or]

/-- Settles O19: both masks are overwritten under a full mask, and the IRQ level is a function of the state they leave. -/
theorem maskWriteSetsTheMask : Obligations.MaskWriteSetsTheMask := fun V s =>
  ⟨⟨_, exec_write_overwrite .imask1 (by decide) (by decide) V s, rfl, irq_eq_true_iff _⟩,
    ⟨_, exec_write_overwrite .imask2 (by decide) (by decide) V s, rfl, irq_eq_true_iff _⟩⟩

/-! ### The write of `MCR` (40_register_bank.md R121, R122) -/

/-- Without `SOFTRST`, the `MCR` word a write leaves holds the written bits off the status bits. -/
theorem withStatus_storedMcr_default_getLsbD (V o : Word) (b : Nat) (hb : b < 32) (h : OffStatus Config.default b) :
    (withStatus Config.default (storedMcr Config.default V o)).getLsbD b = V.getLsbD b := by
  rw [withStatus_getLsbD_offStatus _ _ hb h, storedMcr_default_getLsbD V o b hb, if_neg]
  obtain ⟨hnotrdy, hfrzack, hlpmack⟩ := h
  rintro (rfl | rfl | rfl)
  · exact hnotrdy rfl
  · exact hfrzack rfl
  · exact hlpmack rfl

/-- Settles O20: off the status bits the word is the written one, and the status equations give the three others from
`MDIS`, `HALT` and `FRZ`, which are among the written bits. -/
theorem mcrWriteStoresAndRecomputesStatus : Obligations.McrWriteStoresAndRecomputesStatus := by
  intro V s hV
  have hwrite := regWrite_mcr_of_softrst_clear defaultRecordIsValid hV s
  have hstatus := regWrite_mcr_equations Config.default defaultRecordIsValid V s
  rw [hwrite] at hstatus
  have hkept := withStatus_storedMcr_default_getLsbD V s.regs.mcr
  have hmdis := hkept 31 (by decide) ⟨by decide, by decide, by decide⟩
  have hfrz := hkept 30 (by decide) ⟨by decide, by decide, by decide⟩
  have hhalt := hkept 28 (by decide) ⟨by decide, by decide, by decide⟩
  refine ⟨withStatus Config.default (storedMcr Config.default V s.regs.mcr), ?_, ?_, ?_, ?_, ?_⟩
  · exact (exec_write .mcr V s).trans (by rw [hwrite]; rfl)
  · exact fun b hb hnotrdy hfrzack hlpmack => hkept b hb ⟨hnotrdy, hfrzack, hlpmack⟩
  · exact hstatus.lpmack.trans hmdis
  · rw [← hhalt, ← hfrz]
    exact hstatus.frzack
  · rw [← hmdis, ← hhalt, ← hfrz]
    exact hstatus.notrdy

/-- Off the status bits, the reload of a soft reset keeps `MDIS` and takes every other bit but `SOFTRST` from the reset
value. -/
theorem reloadedMcr_getLsbD_offStatus (c : Config) (m : Word) {b : Nat} (hb : b < 32) (h : OffStatus c b) :
    (reloadedMcr c m).getLsbD b =
      if b = c.softrstBit then false else if b = c.mdisBit then m.getLsbD c.mdisBit
      else (c.decl .mcr).reset.getLsbD b := by
  obtain ⟨hnotrdy, hfrzack, hlpmack⟩ := h
  rw [reloadedMcr_getLsbD c m b hb]
  by_cases hsoftrst : b = c.softrstBit
  · rw [if_pos hsoftrst, if_pos hsoftrst]
  · have hpreserved : b ∈ [c.mdisBit, c.notrdyBit, c.softrstBit, c.frzackBit, c.lpmackBit] ↔ b = c.mdisBit := by
      simp [hnotrdy, hsoftrst, hfrzack, hlpmack]
    simp only [if_neg hsoftrst, hpreserved]
    by_cases hmdis : b = c.mdisBit
    · rw [if_pos hmdis, if_pos hmdis, hmdis]
    · rw [if_neg hmdis, if_neg hmdis]

/-- The `MCR` word a soft reset leaves depends on the one it found by `MDIS` alone. -/
theorem withStatus_reloadedMcr_congr {c : Config} (hc : c.Valid) {m m' : Word}
    (h : m.getLsbD c.mdisBit = m'.getLsbD c.mdisBit) :
    withStatus c (reloadedMcr c m) = withStatus c (reloadedMcr c m') :=
  withStatus_congr hc fun b hb hoff => by
    rw [reloadedMcr_getLsbD_offStatus c m hb hoff, reloadedMcr_getLsbD_offStatus c m' hb hoff, h]

/-- The `MCR` word of a soft reset at the default record: the reset value where `MDIS` was set, zero elsewhere. -/
theorem withStatus_reloadedMcr_default (m : Word) : withStatus Config.default (reloadedMcr Config.default m) =
    if m.getLsbD 31 then 0x88100000#32 else 0x00000000#32 := by
  cases h : m.getLsbD 31 with
  | false => exact (withStatus_reloadedMcr_congr (m' := 0#32) defaultRecordIsValid h).trans (by decide)
  | true => exact (withStatus_reloadedMcr_congr (m' := bit 31) defaultRecordIsValid h).trans (by decide)

/-- Settles O21: `MDIS` as written fixes the `MCR` word, and with both masks zero no source is enabled. -/
theorem mcrWriteWithSoftReset : Obligations.McrWriteWithSoftReset := by
  intro V s hV
  obtain ⟨-, hmdis, -⟩ := storedMcr_control Config.default defaultRecordIsValid V s.regs.mcr
  rw [default_mdisBit] at hmdis
  refine ⟨_, exec_write .mcr V s, ?_, ?_⟩
  · rw [regWrite_mcr_of_softrst_set defaultRecordIsValid hV, withStatus_reloadedMcr_default, hmdis]
    rfl
  · rw [regWrite_mcr_of_softrst_set defaultRecordIsValid hV, Bool.eq_false_iff, Ne, irq_eq_true_iff]
    rintro (hpending | hpending) <;> exact hpending BitVec.zero_and

/-- With `SOFTRST`, the `MCR` word a write leaves, off the status bits: `MDIS` as written, `SOFTRST` clear, every other bit
from the reset value. -/
theorem regWrite_mcr_getLsbD_of_softrst_set {c : Config} (hc : c.Valid) {V : Word} (hV : V.getLsbD c.softrstBit = true)
    (s : State) {b : Nat} (hb : b < 32) (h : OffStatus c b) : (regWrite c .mcr V s).regs.mcr.getLsbD b =
      if b = c.softrstBit then false else if b = c.mdisBit then V.getLsbD c.mdisBit
      else (c.decl .mcr).reset.getLsbD b := by
  obtain ⟨-, hmdis, -⟩ := storedMcr_control c hc V s.regs.mcr
  rw [regWrite_mcr_of_softrst_set hc hV, setReg_regs, Regs.set_mcr, withStatus_getLsbD_offStatus c _ hb h,
    reloadedMcr_getLsbD_offStatus c _ hb h, hmdis]

/-- Settles O22: the bits of `MCR` off the status bits are known one by one, its hook establishes the status equations, and
the soft reset reloads three more registers and keeps the rest. -/
theorem softResetReloadsItsSubset : Obligations.SoftResetReloadsItsSubset := by
  rintro c V s _ hc hV rfl
  refine ⟨?mdis, regWrite_mcr_equations c hc V s, ?reloaded, ?registers, fun r => regWrite_mcr_get_other c r V s,
    regWrite_frame c .mcr V s⟩
  case mdis =>
    obtain ⟨⟨-, -, hnotrdy, hsoftrst, hfrzack, hlpmack⟩, -⟩ := hc.mcr_positions
    obtain ⟨hinside, -⟩ := hc.mcr_inside
    rw [regWrite_mcr_getLsbD_of_softrst_set hc hV s hinside ⟨hnotrdy, hfrzack, hlpmack⟩, if_neg hsoftrst, if_pos rfl]
  case reloaded =>
    intro b hb houtside
    simp only [List.mem_cons, List.not_mem_nil, or_false, not_or] at houtside
    obtain ⟨hmdis, hnotrdy, hsoftrst, hfrzack, hlpmack⟩ := houtside
    rw [regWrite_mcr_getLsbD_of_softrst_set hc hV s hb ⟨hnotrdy, hfrzack, hlpmack⟩, if_neg hsoftrst, if_neg hmdis]
  case registers =>
    rw [regWrite_mcr_of_softrst_set hc hV]
    rintro r (rfl | rfl | rfl) <;> rfl

/-! ### What a register write leaves alone (40_register_bank.md R141, R142) -/

/-- Settles O25: outside its mask no policy alters a bit, and the hook of `MCR` establishes the status equations. -/
theorem writeMaskLaw : Obligations.WriteMaskLaw := by
  intro c r V s hc
  refine ⟨fun hr b hb hmask => ?_, regWrite_mcr_equations c hc V s, fun b hb => ?_, exec_write r V s⟩
  · rw [regWrite_get_same c r V s hr, combine_getLsbD_outside_mask _ _ _ _ b hb hmask]
  · rw [default_mcr_wmask b hb, Bool.not_eq_false', decide_eq_true_iff]

/-- At a valid record a register write leaves every other register alone, but for the three a soft reset reloads. -/
theorem regWrite_get_isolated {c : Config} (hc : c.Valid) (r q : Reg) (V : Word) (s : State) (hq : q ≠ r)
    (hreload : ¬ (r = .mcr ∧ V.getLsbD c.softrstBit = true ∧ (q = .esr1 ∨ q = .imask1 ∨ q = .imask2))) :
    (regWrite c r V s).regs.get q = s.regs.get q := by
  by_cases hr : r = .mcr
  · subst hr
    cases hV : V.getLsbD c.softrstBit with
    | false =>
      rw [regWrite_mcr_of_softrst_clear hc hV]
      exact Regs.get_set_other _ _ _ _ hq
    | true =>
      have hsubset : ¬ (q = .esr1 ∨ q = .imask1 ∨ q = .imask2) := fun h => hreload ⟨rfl, hV, h⟩
      simp only [not_or] at hsubset
      obtain ⟨hesr1, himask1, himask2⟩ := hsubset
      exact regWrite_mcr_get_other c q V s hq hesr1 himask1 himask2
  · exact regWrite_get_other c r q V s hr hq

/-- Settles O26: the written register and the soft reset's three are all that changes, and `canAccept` reads `IFLAG1`,
which the soft reset keeps. -/
theorem registerWritesAreIsolated : Obligations.RegisterWritesAreIsolated := by
  intro r V s
  obtain ⟨hmem, hinbox, hsent, -⟩ := regWrite_frame Config.default r V s
  have hother := fun q => regWrite_get_isolated defaultRecordIsValid r q V s
  refine ⟨_, exec_write r V s, hother, hmem, hinbox, hsent, rfl, fun hr => ?_⟩
  have hiflag1 : (regWrite Config.default r V s).regs.iflag1 = s.regs.iflag1 :=
    hother .iflag1 hr.symm fun ⟨_, _, hreload⟩ => absurd hreload (by decide)
  rw [canAccept_default, canAccept_default, replyNone_regs, hiflag1]

end Sys2Proof.Machine

namespace Sys2Proof.Machine

/-! ### Reading and writing a buffer word (41_message_buffer_store.md R170 to R172) -/

/-- Settles O39: the selector is the encoding of `RD.MB`, which decodes back, and a hard reset empties the store. -/
theorem bufferReadReturnsTheWord : Obligations.BufferReadReturnsTheWord := fun i _ =>
  ⟨decode_encode (.rdMb i) rfl, rfl, Memory.readWord_nil i.val⟩

theorem exec_wrMb (w : Fin 512) (V : Word) (s : State) :
    exec (.wrMb w V) s = .next (replyNone (mbWrite Config.default w.val V s)) := rfl

/-- Settles O40: whether it triggers or not, the write leaves the store with its word written. -/
theorem bufferWriteStoresExactlyItsWord : Obligations.BufferWriteStoresExactlyItsWord := by
  intro w V s hwf
  obtain ⟨hmem, hinbox, -, -⟩ := mbWrite_frame Config.default w.val V s
  refine ⟨_, exec_wrMb w V s, ?word, ?bytes, ?words, ?canonical, hinbox, rfl⟩
  case word => rw [mb_eq, replyNone_mem, hmem, Memory.readWord_writeWord_same _ _ _ w.isLt hwf]
  case bytes =>
    intro a ha
    rw [replyNone_mem, hmem, Memory.readByte_writeWord_other _ _ _ _ ha]
  case words =>
    intro j hj
    rw [mb_eq, mb_eq, replyNone_mem, hmem, Memory.readWord_writeWord_other _ _ _ _ hj]
  case canonical =>
    rw [replyNone_mem, hmem]
    exact Memory.wf_writeWord _ _ _ w.isLt hwf

theorem mbWrite_of_not_txTrigger {c : Config} {i : Nat} {V : Word} {s : State} (h : txTrigger c i V s = false) :
    mbWrite c i V s = storeWord i V s := by
  rcases mbWrite_cases c i V s with ⟨-, hw⟩ | ⟨htrigger, -⟩
  · exact hw
  · exact absurd (h.symm.trans htrigger) Bool.false_ne_true

theorem mbWrite_of_txTrigger {c : Config} {i : Nat} {V : Word} {s : State} (h : txTrigger c i V s = true) :
    mbWrite c i V s = setBufferFlag (i / 4) (send (bufferFrame c (i / 4) V (storeWord i V s)) (storeWord i V s)) := by
  rcases mbWrite_cases c i V s with ⟨hidle, -⟩ | ⟨-, hw⟩
  · exact absurd (hidle.symm.trans h) Bool.false_ne_true
  · exact hw

/-- Settles O41: each of the three reasons denies a clause of the trigger. -/
theorem untriggeredBufferWriteOnlyStores : Obligations.UntriggeredBufferWriteOnlyStores := by
  intro w V s hreason
  have hidle : txTrigger Config.default w.val V s = false := by
    rw [Bool.eq_false_iff, Ne, txTrigger_default_iff]
    rintro ⟨hcontrol, hfrz, hcode⟩
    rcases hreason with hword | hfrozen | hother
    · exact hword hcontrol
    · exact Bool.false_ne_true (hfrz.symm.trans hfrozen)
    · exact hother hcode
  rw [exec_wrMb, mbWrite_of_not_txTrigger hidle]
  rfl

/-! ### The transmit dispatch (41_message_buffer_store.md R172 to R176) -/

/-- Only a control word triggers. -/
theorem txTrigger_of_not_control (c : Config) {i : Nat} (h : i % 4 ≠ 0) (V : Word) (s : State) :
    txTrigger c i V s = false := by
  rw [txTrigger, beq_false_of_ne h, Bool.false_and, Bool.false_and]

/-- Outside freeze a control word with the "transmit data" code triggers. -/
theorem txTrigger_control {c : Config} {C : Word} {s : State} (n : Nat) (hfrz : frozen c s = false)
    (hcode : slice C c.codeHi c.codeLo = c.codeTxData) : txTrigger c (4 * n) C s = true := by
  rw [txTrigger, hfrz, hcode, Nat.mul_mod_right, beq_self_eq_true, beq_self_eq_true]
  rfl

/-- The frame of a buffer is assembled from the words beside the control word, which its write leaves alone. -/
theorem bufferFrame_storeWord_control (c : Config) (n : Nat) (C V : Word) (s : State) :
    bufferFrame c n C (storeWord (4 * n) V s) = bufferFrame c n C s := by
  have hother : ∀ i, i ≠ 4 * n → mb (storeWord (4 * n) V s) i = mb s i := fun i hi =>
    Memory.readWord_writeWord_other s.mem (4 * n) i V hi
  rw [bufferFrame, bufferFrame, hother _ (by omega), hother _ (by omega), hother _ (by omega)]

/-- A triggering write of a control word: the store, one `send`, the buffer's flag. -/
theorem mbWrite_control {c : Config} {C : Word} {s : State} (n : Nat) (hfrz : frozen c s = false)
    (hcode : slice C c.codeHi c.codeLo = c.codeTxData) : mbWrite c (4 * n) C s =
      setBufferFlag n (send (bufferFrame c n C s) (storeWord (4 * n) C s)) := by
  rw [mbWrite_of_txTrigger (txTrigger_control n hfrz hcode), Nat.mul_div_cancel_left n (by decide),
    bufferFrame_storeWord_control]

/-- The flag of a buffer, by the group it is in; buffers from 64 on own none. -/
theorem setBufferFlag_eq (n : Nat) (s : State) : setBufferFlag n s =
    { s with
      regs := if n < 32 then { s.regs with iflag1 := s.regs.iflag1 ||| bit n }
        else if n < 64 then { s.regs with iflag2 := s.regs.iflag2 ||| bit (n - 32) } else s.regs } := by
  rw [setBufferFlag, show 32 * flagGroups = 64 from rfl]
  by_cases h1 : n < 32
  · rw [if_pos (show n < 64 by omega), if_pos h1, Nat.div_eq_of_lt h1, Nat.mod_eq_of_lt h1]
    rfl
  · by_cases h2 : n < 64
    · rw [if_pos h2, if_neg h1, if_pos h2, show n / 32 = 1 by omega, show n % 32 = n - 32 by omega]
      rfl
    · rw [if_neg h2, if_neg h1, if_neg h2]

/-! ### The frame of a buffer, by the bytes of the store (30_encoding.md R99, R100, R102) -/

/-- An identifier is the ID word masked to the width of its format. -/
theorem idField_eq_mod (ext : Bool) (idw : Word) : idField ext idw = idw.toNat % (if ext then 2 ^ 29 else 2 ^ 11) := by
  have hslice : ∀ hi, slice idw hi 0 = idw.toNat % 2 ^ (hi + 1) := fun hi => by
    rw [slice, Nat.pow_zero, Nat.div_one, Nat.sub_zero]
  rw [idField, hslice, hslice]
  cases ext <;> rfl

/-- Byte `j` of a word of the store is the byte at its address (20_memory.md R61). -/
theorem wordByte_readWord (m : Memory) (i j : Nat) (hj : j < 4) : wordByte (m.readWord i) j = m.readByte (4 * i + j) :=
  wordByte_packBytes_at m.readByte (4 * i) j hj

/-- Data byte `k` of buffer `n` is the byte at address `16n + 8 + k` (20_memory.md R61, R70). -/
theorem dataByte_readWord (m : Memory) (n k : Nat) (hk : k < 8) :
    dataByte (m.readWord (4 * n + 2)) (m.readWord (4 * n + 3)) k = m.readByte (16 * n + 8 + k) := by
  have hmod : k % 4 < 4 := Nat.mod_lt _ (by decide)
  rw [dataByte]
  split
  · exact (wordByte_readWord m _ _ hmod).trans (congrArg m.readByte (by omega))
  · exact (wordByte_readWord m _ _ hmod).trans (congrArg m.readByte (by omega))

/-- The frame of buffer `n` at the default record: identifier from the ID word, data from the bytes at `16n + 8` on. -/
theorem bufferFrame_default (n : Nat) (C : Word) (s : State) : bufferFrame Config.default n C s =
    { id := (mb s (4 * n + 1)).toNat % (if C.getLsbD 21 then 2 ^ 29 else 2 ^ 11)
      ext := C.getLsbD 21
      dlc := min (slice C 19 16) 8
      data := (List.range (min (slice C 19 16) 8)).map fun k => s.mem.readByte (16 * n + 8 + k) } := by
  have hdata : (List.range (min (slice C 19 16) 8)).map (dataByte (mb s (4 * n + 2)) (mb s (4 * n + 3))) =
      (List.range (min (slice C 19 16) 8)).map fun k => s.mem.readByte (16 * n + 8 + k) :=
    List.map_congr_left fun k hk =>
      dataByte_readWord s.mem n k ((List.mem_range.mp hk).trans_le (Nat.min_le_right _ _))
  rw [← hdata, ← idField_eq_mod]
  rfl

/-- Settles O42: the write triggers, and its frame and flag are known in closed form. -/
theorem triggeringControlWordTransmits : Obligations.TriggeringControlWordTransmits := by
  intro n C s hfrz hcode
  have hwrite : mbWrite Config.default (bufferWord n 0).val C s = _ := mbWrite_control n.val hfrz hcode
  rw [exec_wrMb, hwrite, bufferFrame_default, setBufferFlag_eq]
  rfl

/-- At the default record the receive flag is that of buffer 0 (42_bus_client_receive.md R190). -/
theorem canAccept_eq_not_bufferFlag (s : State) : canAccept Config.default s = !bufferFlag 0 s := rfl

/-- Settles O46: the dispatch of buffer 0 sets the flag `canAccept` reads. -/
theorem transmitFromReceiveSlotBlocksReception : Obligations.TransmitFromReceiveSlotBlocksReception := by
  intro C s hfrz hcode
  refine ⟨_, exec_wrMb 0 C s, ?_⟩
  have hwrite : mbWrite Config.default (0 : Fin 512).val C s = _ := mbWrite_control 0 hfrz hcode
  rw [canAccept_eq_not_bufferFlag, Bool.not_eq_false', hwrite]
  exact (bufferFlag_setBufferFlag 0 0 _).trans (Bool.or_true _)

/-! ### The transmit round trip (41_message_buffer_store.md R180) -/

/-- The four buffer writes of `TX n` at a record, the control word last (30_encoding.md R108). -/
def txWrites (c : Config) (n : Nat) (C idw d0 d1 : Word) (s : State) : State :=
  mbWrite c (4 * n) C (mbWrite c (4 * n + 3) d1 (mbWrite c (4 * n + 2) d0 (mbWrite c (4 * n + 1) idw s)))

/-- The state before the control word: the three other words of the buffer stored. -/
def storeOperands (n : Nat) (idw d0 d1 : Word) (s : State) : State :=
  storeWord (4 * n + 3) d1 (storeWord (4 * n + 2) d0 (storeWord (4 * n + 1) idw s))

/-- The ID word and the data words are stored without a trigger, then the control word transmits. -/
theorem txWrites_eq {c : Config} {C : Word} {s : State} (n : Nat) (idw d0 d1 : Word) (hfrz : frozen c s = false)
    (hcode : slice C c.codeHi c.codeLo = c.codeTxData) : txWrites c n C idw d0 d1 s =
      setBufferFlag n (send (bufferFrame c n C (storeOperands n idw d0 d1 s))
        (storeWord (4 * n) C (storeOperands n idw d0 d1 s))) := by
  have hstore : ∀ i, i % 4 ≠ 0 → ∀ V s, mbWrite c i V s = storeWord i V s := fun i hi V s =>
    mbWrite_of_not_txTrigger (txTrigger_of_not_control c hi V s)
  rw [txWrites, hstore (4 * n + 1) (by omega), hstore (4 * n + 2) (by omega), hstore (4 * n + 3) (by omega)]
  exact mbWrite_control (s := storeOperands n idw d0 d1 s) n hfrz hcode

/-- Each stored operand reads back: the later stores are to other words. -/
theorem mb_storeOperands {n : Nat} (hn : n < 128) (idw d0 d1 : Word) {s : State} (hwf : s.mem.wf) :
    mb (storeOperands n idw d0 d1 s) (4 * n + 1) = idw ∧ mb (storeOperands n idw d0 d1 s) (4 * n + 2) = d0 ∧
      mb (storeOperands n idw d0 d1 s) (4 * n + 3) = d1 := by
  have hwf1 := Memory.wf_writeWord s.mem (4 * n + 1) idw (by omega) hwf
  have hwf2 := Memory.wf_writeWord _ (4 * n + 2) d0 (by omega) hwf1
  simp only [storeOperands, mb_eq, storeWord_mem]
  refine ⟨?_, ?_, ?_⟩
  · rw [Memory.readWord_writeWord_other _ _ _ _ (by omega), Memory.readWord_writeWord_other _ _ _ _ (by omega),
      Memory.readWord_writeWord_same _ _ _ (by omega) hwf]
  · rw [Memory.readWord_writeWord_other _ _ _ _ (by omega), Memory.readWord_writeWord_same _ _ _ (by omega) hwf1]
  · rw [Memory.readWord_writeWord_same _ _ _ (by omega) hwf2]

/-- The store before the control word is in canonical form. -/
theorem storeOperands_wf {n : Nat} (hn : n < 128) (idw d0 d1 : Word) {s : State} (hwf : s.mem.wf) :
    (storeOperands n idw d0 d1 s).mem.wf :=
  Memory.wf_writeWord _ _ _ (by omega) (Memory.wf_writeWord _ _ _ (by omega) (Memory.wf_writeWord _ _ _ (by omega) hwf))

/-- What the four writes send: the frame decoded from the four words. -/
theorem txWrites_sent {c : Config} {C : Word} {s : State} {n : Nat} (hn : n < 128) (idw d0 d1 : Word) (hwf : s.mem.wf)
    (hfrz : frozen c s = false) (hcode : slice C c.codeHi c.codeLo = c.codeTxData) :
    (txWrites c n C idw d0 d1 s).sent = s.sent ++ [txFrame c C idw d0 d1] := by
  obtain ⟨hid, h0, h1⟩ := mb_storeOperands hn idw d0 d1 hwf
  rw [txWrites_eq n idw d0 d1 hfrz hcode, setBufferFlag_sent, send_sent, bufferFrame, hid, h0, h1]
  rfl

/-- The four writes set the buffer's flag, if it owns one, and no other. -/
theorem bufferFlag_txWrites {c : Config} {C : Word} {s : State} (n : Nat) (idw d0 d1 : Word)
    (hfrz : frozen c s = false) (hcode : slice C c.codeHi c.codeLo = c.codeTxData) (k : Nat) :
    bufferFlag k (txWrites c n C idw d0 d1 s) = (bufferFlag k s || (decide (k = n) && decide (n < 64))) := by
  rw [txWrites_eq n idw d0 d1 hfrz hcode, bufferFlag_setBufferFlag]
  rfl

/-- The flag of a buffer below 64 is set by its four writes. -/
theorem bufferFlag_txWrites_same {c : Config} {C : Word} {s : State} {n : Nat} (idw d0 d1 : Word)
    (hfrz : frozen c s = false) (hcode : slice C c.codeHi c.codeLo = c.codeTxData) (hn : n < 64) :
    bufferFlag n (txWrites c n C idw d0 d1 s) = true := by
  rw [bufferFlag_txWrites n idw d0 d1 hfrz hcode, decide_eq_true rfl, decide_eq_true hn]
  exact Bool.or_true _

/-- The four words stand in the store after the four writes. -/
theorem mb_txWrites {c : Config} {C : Word} {s : State} {n : Nat} (hn : n < 128) (idw d0 d1 : Word) (hwf : s.mem.wf)
    (hfrz : frozen c s = false) (hcode : slice C c.codeHi c.codeLo = c.codeTxData) :
    mb (txWrites c n C idw d0 d1 s) (4 * n) = C ∧ mb (txWrites c n C idw d0 d1 s) (4 * n + 1) = idw ∧
      mb (txWrites c n C idw d0 d1 s) (4 * n + 2) = d0 ∧ mb (txWrites c n C idw d0 d1 s) (4 * n + 3) = d1 := by
  obtain ⟨hid, h0, h1⟩ := mb_storeOperands hn idw d0 d1 hwf
  have hmem : (txWrites c n C idw d0 d1 s).mem = (storeOperands n idw d0 d1 s).mem.writeWord (4 * n) C := by
    rw [txWrites_eq n idw d0 d1 hfrz hcode, setBufferFlag_mem, send_mem, storeWord_mem]
  have hother : ∀ i, i ≠ 4 * n → mb (txWrites c n C idw d0 d1 s) i = mb (storeOperands n idw d0 d1 s) i := fun i hi => by
    rw [mb_eq, mb_eq, hmem, Memory.readWord_writeWord_other _ _ _ _ hi]
  refine ⟨?_, (hother _ (by omega)).trans hid, (hother _ (by omega)).trans h0, (hother _ (by omega)).trans h1⟩
  rw [mb_eq, hmem, Memory.readWord_writeWord_same _ _ _ (by omega) (storeOperands_wf hn idw d0 d1 hwf)]

/-- Settles O45: the four writes are `txWrites`, whose frame and flags are known at every record. -/
theorem transmitRoundTripAtEveryRecord : Obligations.TransmitRoundTripAtEveryRecord := by
  rintro c n C idw d0 d1 s _ hwf hfrz hcode rfl
  refine ⟨txWrites_sent n.isLt idw d0 d1 hwf hfrz hcode, bufferFlag_txWrites_same idw d0 d1 hfrz hcode, fun k hk => ?_⟩
  exact (bufferFlag_txWrites n.val idw d0 d1 hfrz hcode k).trans
    (by rw [decide_eq_false hk, Bool.false_and, Bool.or_false])

/-- A buffer write does not read the reply it finds. -/
theorem mbWrite_replyNone (c : Config) (i : Nat) (V : Word) (s : State) :
    mbWrite c i V (replyNone s) = replyNone (mbWrite c i V s) := by
  cases htrigger : txTrigger c i V s with
  | false => rw [mbWrite_of_not_txTrigger htrigger, mbWrite_of_not_txTrigger (s := replyNone s) htrigger]; rfl
  | true =>
    rw [mbWrite_of_txTrigger htrigger, mbWrite_of_txTrigger (s := replyNone s) htrigger, setBufferFlag_eq,
      setBufferFlag_eq]
    rfl

/-- The pseudo-operation `TX n` runs the four writes and returns nothing. -/
theorem execAll_tx (n : Fin 128) (C idw d0 d1 : Word) (s : State) :
    execAll (Pseudo.tx n C idw d0 d1).expand s = .next (replyNone (txWrites Config.default n.val C idw d0 d1 s)) := by
  show Host.Outcome.next (replyNone (mbWrite Config.default (4 * n.val) C (replyNone (mbWrite Config.default
    (4 * n.val + 3) d1 (replyNone (mbWrite Config.default (4 * n.val + 2) d0 (replyNone (mbWrite Config.default
    (4 * n.val + 1) idw s)))))))) = _
  simp only [mbWrite_replyNone]
  rfl

/-- The data of a frame, as the first of the eight bytes of the data words. -/
theorem map_dataByte_range_min (d0 d1 : Word) (dlc : Nat) : (List.range (min dlc 8)).map (dataByte d0 d1) =
    [wordByte d0 0, wordByte d0 1, wordByte d0 2, wordByte d0 3, wordByte d1 0, wordByte d1 1, wordByte d1 2,
      wordByte d1 3].take (min dlc 8) := by
  have hall : (List.range 8).map (dataByte d0 d1) = [wordByte d0 0, wordByte d0 1, wordByte d0 2, wordByte d0 3,
    wordByte d1 0, wordByte d1 1, wordByte d1 2, wordByte d1 3] := rfl
  rw [← hall, ← List.map_take, List.take_range, Nat.min_eq_left (Nat.min_le_right dlc 8)]

/-- The frame decoded from four words at the default record. -/
theorem txFrame_default (C idw d0 d1 : Word) : txFrame Config.default C idw d0 d1 =
    { id := idw.toNat % (if C.getLsbD 21 then 2 ^ 29 else 2 ^ 11)
      ext := C.getLsbD 21
      dlc := min (slice C 19 16) 8
      data := [wordByte d0 0, wordByte d0 1, wordByte d0 2, wordByte d0 3, wordByte d1 0, wordByte d1 1, wordByte d1 2,
        wordByte d1 3].take (min (slice C 19 16) 8) } := by
  rw [← map_dataByte_range_min, ← idField_eq_mod]
  rfl

/-- Settles O44: `TX` runs the four writes, whose frame, words and flag are known at every record. -/
theorem transmitRoundTrip : Obligations.TransmitRoundTrip := by
  intro n C idw d0 d1 s hwf hfrz hcode
  refine ⟨_, execAll_tx n C idw d0 d1 s, ?frame, ?words⟩
  case frame =>
    rw [← txFrame_default]
    exact txWrites_sent n.isLt idw d0 d1 hwf hfrz hcode
  case words =>
    obtain ⟨hctrl, hid, h0, h1⟩ := mb_txWrites (c := Config.default) n.isLt idw d0 d1 hwf hfrz hcode
    exact ⟨hctrl, hid, h0, h1, bufferFlag_txWrites_same idw d0 d1 hfrz hcode⟩

end Sys2Proof.Machine

namespace Sys2Proof.Machine

/-! ### The receive flag as an operation finds it (42_bus_client_receive.md R190, R193) -/

/-- Settles O47: `canAccept` reads bit 0 of `IFLAG1` alone. -/
theorem acceptReportsTheReceiveFlag : Obligations.AcceptReportsTheReceiveFlag := by
  intro s
  rw [← canAccept_default]
  rfl

/-- Settles O49: with the receive flag set `canAccept` is false. -/
theorem deliveryWhileFullIsRefused : Obligations.DeliveryWhileFullIsRefused := by
  intro f s hfull
  exact exec_busRx_of_not_canAccept (by rw [canAccept_default, hfull, Bool.not_true]) f

/-- `canAccept()` does not read the reply. -/
@[simp] theorem canAccept_replyNone (c : Config) (s : State) : canAccept c (replyNone s) = canAccept c s := rfl

/-- A delivery completes exactly when the slot is empty, and then leaves the deposit. -/
theorem exec_busRx_eq_next_iff {f : Frame} {s t : State} : exec (.busRx f) s = .next t ↔
    canAccept Config.default s = true ∧ replyNone (deliver Config.default f s) = t := by
  cases haccept : canAccept Config.default s with
  | true => rw [exec_busRx_of_canAccept haccept, Host.Outcome.next.injEq, eq_self_iff_true, true_and]
  | false => simp only [exec_busRx_of_not_canAccept haccept, reduceCtorEq, Bool.false_eq_true, false_and]

/-! ### The words of a reception (42_bus_client_receive.md R192; 30_encoding.md R103) -/

/-- A reception is the store of the control word, the stores of the three other words, then the flag. -/
theorem deliver_eq (c : Config) (f : Frame) (s : State) : deliver c f s =
    setGroupFlag c.rxFlagGroup c.rxFlagBit (storeOperands c.rxSlot (rxId f) (rxData0 f) (rxData1 f)
      (storeWord (4 * c.rxSlot) (rxCtrl c f) s)) := rfl

/-- The stores of the three other words leave every byte outside the buffer, and its control word, alone. -/
theorem readByte_storeOperands_other (n : Nat) (idw d0 d1 : Word) (s : State) {a : Nat}
    (h : a < 16 * n + 4 ∨ 16 * n + 16 ≤ a) : (storeOperands n idw d0 d1 s).mem.readByte a = s.mem.readByte a := by
  simp only [storeOperands, storeWord_mem]
  rw [Memory.readByte_writeWord_other _ _ _ _ (by omega), Memory.readByte_writeWord_other _ _ _ _ (by omega),
    Memory.readByte_writeWord_other _ _ _ _ (by omega)]

theorem mb_storeOperands_control (n : Nat) (idw d0 d1 : Word) (s : State) :
    mb (storeOperands n idw d0 d1 s) (4 * n) = mb s (4 * n) := by
  simp only [storeOperands, mb_eq, storeWord_mem]
  rw [Memory.readWord_writeWord_other _ _ _ _ (by omega), Memory.readWord_writeWord_other _ _ _ _ (by omega),
    Memory.readWord_writeWord_other _ _ _ _ (by omega)]

/-- A reception leaves every byte outside the four words of the slot alone. -/
theorem readByte_deliver_other (c : Config) (f : Frame) (s : State) {a : Nat}
    (h : a < 16 * c.rxSlot ∨ 16 * c.rxSlot + 16 ≤ a) : (deliver c f s).mem.readByte a = s.mem.readByte a := by
  rw [deliver_eq, setGroupFlag_mem, readByte_storeOperands_other _ _ _ _ _ (by omega), storeWord_mem,
    Memory.readByte_writeWord_other _ _ _ _ (by omega)]

/-- Setting the flag leaves the words as they were stored. -/
theorem mb_deliver_eq (c : Config) (f : Frame) (s : State) (i : Nat) : mb (deliver c f s) i =
    mb (storeOperands c.rxSlot (rxId f) (rxData0 f) (rxData1 f) (storeWord (4 * c.rxSlot) (rxCtrl c f) s)) i := by
  rw [mb_eq, mb_eq, deliver_eq, setGroupFlag_mem]

/-- The four words of the slot after a reception, at every valid record. -/
theorem mb_deliver {c : Config} (hc : c.Valid) (f : Frame) {s : State} (hwf : s.mem.wf) :
    mb (deliver c f s) (4 * c.rxSlot) = rxCtrl c f ∧ mb (deliver c f s) (4 * c.rxSlot + 1) = rxId f ∧
      mb (deliver c f s) (4 * c.rxSlot + 2) = rxData0 f ∧ mb (deliver c f s) (4 * c.rxSlot + 3) = rxData1 f := by
  have hslot : c.rxSlot < 64 := hc.rxSlot_flagged
  have hcontrol : (storeWord (4 * c.rxSlot) (rxCtrl c f) s).mem.wf := by
    rw [storeWord_mem]
    exact Memory.wf_writeWord _ _ _ (by omega) hwf
  simp only [mb_deliver_eq]
  refine ⟨?_, mb_storeOperands (by omega) _ _ _ hcontrol⟩
  rw [mb_storeOperands_control, mb_eq, storeWord_mem, Memory.readWord_writeWord_same _ _ _ (by omega) hwf]

/-- The data bytes of the slot after a reception. -/
theorem readByte_deliver_data {c : Config} (hc : c.Valid) (f : Frame) {s : State} (hwf : s.mem.wf) {k : Nat}
    (hk : k < 8) : (deliver c f s).mem.readByte (16 * c.rxSlot + 8 + k) = rxByte f k := by
  obtain ⟨-, -, hdata0, hdata1⟩ := mb_deliver hc f hwf
  rw [mb_eq] at hdata0 hdata1
  rw [← dataByte_readWord _ _ _ hk, hdata0, hdata1, dataByte_rxData f k hk]

/-- The deposited control word at the default record: `IDE` in bit 21, the clamped data length in bits 19 to 16. -/
theorem rxCtrl_default_getLsbD (f : Frame) {b : Nat} (hb : b < 32) : (rxCtrl Config.default f).getLsbD b =
    ((b == 21 && f.ext) || (decide (16 ≤ b ∧ b < 20) && (min f.dlc 8).testBit (b - 16))) := by
  rw [rxCtrl_getLsbD _ f b hb, default_ideBit, default_dlcLo, Bool.and_comm, Bool.decide_and, Bool.and_assoc]
  congr 2
  by_cases hlt : b < 20
  · rw [decide_eq_true hlt, Bool.true_and]
    rfl
  · rw [decide_eq_false hlt, Bool.false_and, clampDlc_testBit_of_le (by omega)]

/-- The deposited ID word holds the identifier, masked to the width of its format. -/
theorem rxId_toNat (f : Frame) : (rxId f).toNat = f.id % (if f.ext then 2 ^ 29 else 2 ^ 11) := by
  rw [rxId, BitVec.toNat_ofNat]
  split <;> omega

/-- A reception fills the slot, at every valid record (42_bus_client_receive.md R197). -/
theorem canAccept_deliver {c : Config} (hc : c.Valid) (f : Frame) (s : State) : canAccept c (deliver c f s) = false := by
  obtain ⟨-, hbit⟩ := hc.rxFlag_inside
  rw [canAccept, deliver_eq, setGroupFlag_regs, Regs.get_set_same, BitVec.getLsbD_or, bit_getLsbD, decide_eq_true hbit,
    decide_eq_true rfl, Bool.true_and, Bool.or_true, Bool.not_true]

/-- The registers a reception leaves at the default record: bit 0 of `IFLAG1` is set. -/
theorem deliver_default_regs (f : Frame) (s : State) :
    (deliver Config.default f s).regs = { s.regs with iflag1 := s.regs.iflag1 ||| 1#32 } := by
  obtain ⟨-, -, -, hregs, -⟩ := deliver_frame Config.default f s
  rw [hregs]
  rfl

/-- Settles O48: the deposit is that of the default record, whose slot is buffer 0 and whose flag is bit 0 of `IFLAG1`. -/
theorem deliveryFillsTheReceiveSlot : Obligations.DeliveryFillsTheReceiveSlot := by
  intro f s hwf hclear
  have haccept : canAccept Config.default s = true := by rw [canAccept_default, hclear, Bool.not_false]
  have hwords := mb_deliver defaultRecordIsValid f hwf
  simp only [mb_eq, default_rxSlot, Nat.mul_zero, Nat.zero_add] at hwords
  obtain ⟨hctrl, hid, -, -⟩ := hwords
  obtain ⟨hinbox, hsent, -⟩ := deliver_frame Config.default f s
  refine ⟨_, exec_busRx_of_canAccept haccept f, fun b hb => ?control, ?identifier, fun k hk => ?data, fun a ha => ?bytes,
    ?canonical, ?registers, hinbox, hsent, replyNone_reply _, ?full⟩
  case control => rw [mb_eq, replyNone_mem, hctrl, rxCtrl_default_getLsbD f hb]
  case identifier => rw [mb_eq, replyNone_mem, hid, rxId_toNat]
  case data =>
    have hdata := readByte_deliver_data defaultRecordIsValid f hwf hk
    rw [default_rxSlot, Nat.mul_zero, Nat.zero_add] at hdata
    rw [replyNone_mem, hdata]
    rfl
  case bytes => rw [replyNone_mem, readByte_deliver_other _ _ _ (.inr ha)]
  case canonical =>
    rw [replyNone_mem]
    exact deliver_mem_wf defaultRecordIsValid f hwf
  case registers => rw [replyNone_regs, deliver_default_regs]
  case full => rw [canAccept_replyNone, canAccept_deliver defaultRecordIsValid]

/-! ### Re-arming and backpressure (42_bus_client_receive.md R195 to R197) -/

/-- A store touches no flag. -/
@[simp] theorem bufferFlag_storeWord (i : Nat) (v : Word) (s : State) (k : Nat) :
    bufferFlag k (storeWord i v s) = bufferFlag k s :=
  bufferFlag_congr rfl rfl k

/-- A reception sets the flag of the receive slot and no other, at every valid record. -/
theorem bufferFlag_deliver_of_valid {c : Config} (hc : c.Valid) (f : Frame) (s : State) (k : Nat) :
    bufferFlag k (deliver c f s) = (bufferFlag k s || decide (k = 32 * (c.rxFlagGroup - 1) + c.rxFlagBit)) := by
  obtain ⟨hgroup, hbit⟩ := hc.rxFlag_inside
  rw [deliver_eq, bufferFlag_setGroupFlag _ _ _ _ hgroup hbit, storeOperands]
  simp only [bufferFlag_storeWord]

/-- A flag register of a valid record is write-1-to-clear. -/
theorem groupFlag_w1c {c : Config} (hc : c.Valid) (g : Nat) : (c.decl (groupFlag g)).policy = .w1c := by
  obtain ⟨hiflag1, hiflag2⟩ := hc.flags_clear
  unfold groupFlag
  split
  · exact hiflag1
  · exact hiflag2

/-- A 1 written to the receive flag, inside the write mask, empties the slot. -/
theorem canAccept_regWrite_rxFlag {c : Config} (hc : c.Valid) {V : Word} (s : State) (hV : V.getLsbD c.rxFlagBit = true)
    (hmask : (c.decl (groupFlag c.rxFlagGroup)).wmask.getLsbD c.rxFlagBit = true) :
    canAccept c (regWrite c (groupFlag c.rxFlagGroup) V s) = true := by
  obtain ⟨-, hbit⟩ := hc.rxFlag_inside
  have hne : groupFlag c.rxFlagGroup ≠ .mcr := by unfold groupFlag; split <;> decide
  rw [canAccept, regWrite_get_same c _ V s hne, groupFlag_w1c hc, combine_w1c_getLsbD _ _ _ _ hbit, hV, hmask,
    Bool.and_true, Bool.not_true, Bool.and_false, Bool.not_false]

/-- Settles O53: the flag a reception sets is the one `canAccept` reads, and its register clears on a written 1. -/
theorem receiveBackpressureAtEveryRecord : Obligations.ReceiveBackpressureAtEveryRecord := by
  intro c f V s hc
  refine ⟨canAccept_deliver hc f s, fun k hk => ?_, canAccept_regWrite_rxFlag hc s⟩
  rw [bufferFlag_deliver_of_valid hc, decide_eq_false hk, Bool.or_false]

/-- `WR.IFLAG1` with a 1 in the receive flag's bit empties the slot, from every state. -/
theorem exec_wrIflag1_rearms {V : Word} (hV : V.getLsbD Config.default.rxFlagBit = true) (s : State) :
    ∃ t : State, exec (.wrIflag1 V) s = .next t ∧ canAccept Config.default t = true :=
  ⟨_, exec_write .iflag1 V s, canAccept_regWrite_rxFlag defaultRecordIsValid s hV (by decide)⟩

/-- A buffer write clears no flag. -/
theorem bufferFlag_mbWrite_of_set (c : Config) (i : Nat) (V : Word) {s : State} {n : Nat} (h : bufferFlag n s = true) :
    bufferFlag n (mbWrite c i V s) = true := by
  rcases mbWrite_cases c i V s with ⟨-, hw⟩ | ⟨-, hw⟩ <;> rw [hw]
  · exact h
  · exact (bufferFlag_setBufferFlag _ n _).trans (Bool.or_eq_true_iff.mpr (.inl h))

/-- `WR.IFLAG1` empties the slot by a 1 in bit 0, and keeps an empty slot empty. -/
theorem canAccept_wrIflag1 (V : Word) (s : State) : canAccept Config.default (regWrite Config.default .iflag1 V s) =
    (canAccept Config.default s || V.getLsbD 0) := by
  rw [canAccept_eq_not_bufferFlag, bufferFlag_wrIflag1, decide_eq_true (by decide), Bool.true_and, Bool.not_and,
    Bool.not_not, canAccept_eq_not_bufferFlag]

/-- A write of any other register leaves the slot as it is. -/
theorem canAccept_regWrite_of_ne {r : Reg} (h : r ≠ .iflag1) (V : Word) (s : State) :
    canAccept Config.default (regWrite Config.default r V s) = canAccept Config.default s := by
  obtain ⟨t, ht, -, -, -, -, -, hkept⟩ := registerWritesAreIsolated r V s
  rw [exec_write, Host.Outcome.next.injEq] at ht
  subst ht
  exact hkept h

/-- An operation that empties the slot is a hard reset or a write of a 1 to the receive flag. -/
theorem eq_reset_or_wrIflag1_of_rearmed {i : Instr} {s t : State} (h : exec i s = .next t)
    (hfull : canAccept Config.default s = false) : canAccept Config.default t = true →
    i = .reset ∨ ∃ V : Word, i = .wrIflag1 V ∧ V.getLsbD Config.default.rxFlagBit = true := by
  have hflag : bufferFlag 0 s = true := by rwa [canAccept_eq_not_bufferFlag, Bool.not_eq_false'] at hfull
  have hnot : ∀ {u : State}, canAccept Config.default u = false → ¬ canAccept Config.default u = true :=
    Bool.eq_false_iff.mp
  refine exec_next_elim (motive := fun t => canAccept Config.default t = true → _) h ?answer ?write ?wrMb ?busRx ?reset
  case answer => exact fun _ hempty => absurd hempty (hnot hfull)
  case write =>
    rintro r V rfl hempty
    rw [canAccept_replyNone] at hempty
    by_cases hr : r = .iflag1
    · subst hr
      have hbit := (canAccept_wrIflag1 V s).symm.trans hempty
      rw [hfull, Bool.false_or] at hbit
      exact .inr ⟨V, rfl, hbit⟩
    · exact absurd hempty (hnot ((canAccept_regWrite_of_ne hr V s).trans hfull))
  case wrMb =>
    intro w V _ hempty
    rw [canAccept_replyNone] at hempty
    have hkept : canAccept Config.default (mbWrite Config.default w.val V s) = false := by
      rw [canAccept_eq_not_bufferFlag, bufferFlag_mbWrite_of_set _ _ _ hflag, Bool.not_true]
    exact absurd hempty (hnot hkept)
  case busRx =>
    intro f _ hempty
    rw [canAccept_replyNone] at hempty
    exact absurd hempty (hnot (canAccept_deliver defaultRecordIsValid f s))
  case reset => exact fun hi _ => .inl hi

/-- A hard reset empties the slot. -/
theorem canAccept_hardReset (s : State) : canAccept Config.default (hardReset Config.default s) = true := by
  rw [canAccept_eq_not_bufferFlag, bufferFlag_hardReset, Bool.not_false]

/-- Settles O51: both re-arming operations empty the slot, and an empty slot takes any frame. -/
theorem onlyFlagWriteOrResetRearms : Obligations.OnlyFlagWriteOrResetRearms := by
  refine ⟨fun i s t => eq_reset_or_wrIflag1_of_rearmed, fun s V f hV => ⟨?write, ?reset⟩⟩
  case write =>
    obtain ⟨t, ht, haccept⟩ := exec_wrIflag1_rearms hV s
    exact ⟨t, _, ht, haccept, exec_busRx_of_canAccept haccept f⟩
  case reset =>
    have haccept : canAccept Config.default (replyNone (hardReset Config.default s)) = true := by
      rw [canAccept_replyNone, canAccept_hardReset]
    exact ⟨_, _, rfl, haccept, exec_busRx_of_canAccept haccept f⟩

/-- The bus delivers to an empty slot (R195). -/
theorem busOffer_of_canAccept {s : State} (h : canAccept Config.default s = true) (f : Frame) :
    busOffer f s = exec (.busRx f) s :=
  if_pos h

/-- The bus drops a frame that meets a full slot (R191; 60_exceptions.md R223). -/
theorem busOffer_of_not_canAccept {s : State} (h : canAccept Config.default s = false) (f : Frame) :
    busOffer f s = .next s :=
  if_neg (Bool.eq_false_iff.mp h)

/-- Settles O52: a delivery found the slot empty and leaves it full, until the written 1 empties it. -/
theorem receiveBackpressure : Obligations.ReceiveBackpressure := by
  intro f g s t h
  obtain ⟨hempty, rfl⟩ := exec_busRx_eq_next_iff.mp h
  have hfull : canAccept Config.default (replyNone (deliver Config.default f s)) = false := by
    rw [canAccept_replyNone, canAccept_deliver defaultRecordIsValid]
  obtain ⟨u, hu, haccept⟩ := exec_wrIflag1_rearms (V := 1#32) (by decide) (replyNone (deliver Config.default f s))
  have hnext := exec_busRx_of_canAccept haccept g
  exact ⟨hempty, hfull, exec_busRx_of_not_canAccept hfull g, busOffer_of_not_canAccept hfull g, u, _, hu, hnext,
    (busOffer_of_canAccept haccept g).trans hnext⟩

end Sys2Proof.Machine

namespace Sys2Proof.Machine

/-! ### The mode is a function of `MCR` (43_controller_core.md R205) -/

theorem mode_of_mdis {c : Config} {s : State} (h : s.regs.mcr.getLsbD c.mdisBit = true) : mode c s = .disabled :=
  if_pos h

theorem mode_of_mdis_clear {c : Config} {s : State} (h : s.regs.mcr.getLsbD c.mdisBit = false) :
    mode c s = if freezeRequested c s.regs.mcr then .freeze else .normal :=
  if_neg (Bool.eq_false_iff.mp h)

/-- Settles O29, by `MDIS` and then by the freeze condition: each pair of values gives one of three distinct modes. -/
theorem modeIsReadOffMcr : Obligations.ModeIsReadOffMcr := by
  intro c s
  rw [← Bool.and_eq_true_iff, ← freezeRequested]
  cases hmdis : s.regs.mcr.getLsbD c.mdisBit with
  | true => simp [mode_of_mdis hmdis]
  | false =>
    rw [mode_of_mdis_clear hmdis]
    cases freezeRequested c s.regs.mcr <;> simp

/-- States whose `MCR` agrees on `MDIS`, `HALT` and `FRZ` are in one mode. -/
theorem mode_congr {c : Config} {s t : State} (hmdis : t.regs.mcr.getLsbD c.mdisBit = s.regs.mcr.getLsbD c.mdisBit)
    (hhalt : t.regs.mcr.getLsbD c.haltBit = s.regs.mcr.getLsbD c.haltBit)
    (hfrz : t.regs.mcr.getLsbD c.frzBit = s.regs.mcr.getLsbD c.frzBit) : mode c t = mode c s := by
  rw [mode, mode, freezeRequested, freezeRequested, hmdis, hhalt, hfrz]

/-! ### What changes the mode (43_controller_core.md R206) -/

/-- Without `SOFTRST`, the mode after `WR.MCR` is that of the written word, at every valid record. -/
theorem mode_regWrite_mcr_of_softrst_clear {c : Config} (hc : c.Valid) {V : Word} (hV : V.getLsbD c.softrstBit = false)
    (s : State) : mode c (regWrite c .mcr V s) = mode c (withMcr V s) := by
  obtain ⟨⟨-, -, a1, -, a2, a3⟩, ⟨-, b1, -, b2, b3⟩, ⟨c1, -, c2, c3⟩, -⟩ := hc.mcr_positions
  obtain ⟨hm, hf, hh, -⟩ := hc.mcr_inside
  obtain ⟨-, hmdis, hhalt, hfrz⟩ := storedMcr_control c hc V s.regs.mcr
  rw [regWrite_mcr_of_softrst_clear hc hV]
  exact mode_congr ((withStatus_getLsbD_offStatus c _ hm ⟨a1, a2, a3⟩).trans hmdis)
    ((withStatus_getLsbD_offStatus c _ hh ⟨c1, c2, c3⟩).trans hhalt)
    ((withStatus_getLsbD_offStatus c _ hf ⟨b1, b2, b3⟩).trans hfrz)

/-- With `SOFTRST`, the written `MDIS` alone decides the mode after `WR.MCR`: both words the reload can leave request no
freeze. -/
theorem mode_regWrite_mcr_of_softrst_set {V : Word} (hV : V.getLsbD Config.default.softrstBit = true) (s : State) :
    mode Config.default (regWrite Config.default .mcr V s) = if V.getLsbD 31 then .disabled else .normal := by
  obtain ⟨-, hmdis, -⟩ := storedMcr_control Config.default defaultRecordIsValid V s.regs.mcr
  rw [default_mdisBit] at hmdis
  rw [regWrite_mcr_of_softrst_set defaultRecordIsValid hV, withStatus_reloadedMcr_default, hmdis]
  cases V.getLsbD 31 with
  | false => exact (mode_congr (s := withMcr 0x00000000#32 State.reset) rfl rfl rfl).trans (by decide)
  | true => exact (mode_congr (s := withMcr 0x88100000#32 State.reset) rfl rfl rfl).trans (by decide)

/-- Settles O30, by the written `SOFTRST`: clear, the mode is that of the written word; set, the written `MDIS` alone
decides. -/
theorem mcrWriteSetsTheMode : Obligations.McrWriteSetsTheMode := by
  intro V s
  refine ⟨_, exec_write .mcr V s, ?_⟩
  cases hV : V.getLsbD 25 with
  | false =>
    refine (mode_regWrite_mcr_of_softrst_clear defaultRecordIsValid hV s).trans ?_
    simp only [true_and, ← Bool.and_eq_true_iff]
    rfl
  | true =>
    refine (mode_regWrite_mcr_of_softrst_set hV s).trans ?_
    simp only [Bool.true_eq_false, false_and, if_false]

/-- Every operation but `WR.MCR` and `RESET` leaves `MCR` alone. -/
theorem exec_mcr {i : Instr} {s t : State} (h : exec i s = .next t) :
    t.regs.mcr = s.regs.mcr ∨ i = .reset ∨ ∃ V : Word, i = .wrMcr V := by
  refine exec_next_elim (motive := fun t => t.regs.mcr = s.regs.mcr ∨ _) h ?answer ?write ?wrMb ?busRx ?reset
  case answer => exact fun _ => .inl rfl
  case write =>
    rintro r V rfl
    by_cases hr : r = .mcr
    · exact .inr (.inr ⟨V, by rw [hr]; rfl⟩)
    · exact .inl (regWrite_mcr_of_ne _ r V s hr)
  case wrMb => exact fun w V _ => .inl (mbWrite_mcr _ w.val V s)
  case busRx => exact fun f _ => .inl (deliver_mcr _ f s)
  case reset => exact fun hi => .inr (.inl hi)

/-- Settles O31: the mode is a function of `MCR`, which the other operations leave alone. -/
theorem onlyMcrWriteAndResetChangeTheMode : Obligations.OnlyMcrWriteAndResetChangeTheMode := by
  intro i s t h hmode
  refine (exec_mcr h).resolve_left fun hmcr => hmode (mode_congr ?_ ?_ ?_) <;> rw [hmcr]

/-! ### What `MCR` decides (43_controller_core.md R208) -/

/-- What an operation leaves, under a change of state. -/
def mapNext (g : State → State) : Host.Outcome State Fault Refusal → Host.Outcome State Fault Refusal
  | .next t => .next (g t)
  | .fault e => .fault e
  | .refused e => .refused e

/-- A store to another register commutes with a change of `MCR`. -/
theorem setReg_withMcr {r : Reg} (h : r ≠ .mcr) (v m : Word) (s : State) :
    setReg r v (withMcr m s) = withMcr m (setReg r v s) := by
  cases r
  case mcr => exact absurd rfl h
  all_goals rfl

theorem withMcr_get (m : Word) (s : State) {r : Reg} (h : r ≠ .mcr) : (withMcr m s).regs.get r = s.regs.get r :=
  Regs.get_set_other s.regs .mcr r m h

theorem groupFlag_ne_mcr (g : Nat) : groupFlag g ≠ .mcr := by
  unfold groupFlag
  split <;> decide

theorem canAccept_withMcr (c : Config) (m : Word) (s : State) : canAccept c (withMcr m s) = canAccept c s := by
  rw [canAccept, withMcr_get m s (groupFlag_ne_mcr _), canAccept]

theorem storeWord_withMcr (i : Nat) (v m : Word) (s : State) :
    storeWord i v (withMcr m s) = withMcr m (storeWord i v s) := rfl

theorem send_withMcr (f : Frame) (m : Word) (s : State) : send f (withMcr m s) = withMcr m (send f s) := rfl

/-- The frame a buffer sends is assembled from the store. -/
theorem bufferFrame_withMcr (c : Config) (n : Nat) (C m : Word) (s : State) :
    bufferFrame c n C (withMcr m s) = bufferFrame c n C s := rfl

theorem setGroupFlag_withMcr (g b : Nat) (m : Word) (s : State) :
    setGroupFlag g b (withMcr m s) = withMcr m (setGroupFlag g b s) := by
  have hflag := groupFlag_ne_mcr g
  show setReg (groupFlag g) ((withMcr m s).regs.get (groupFlag g) ||| bit b) (withMcr m s) = _
  rw [withMcr_get m s hflag]
  exact setReg_withMcr hflag _ m s

theorem setBufferFlag_withMcr (n : Nat) (m : Word) (s : State) :
    setBufferFlag n (withMcr m s) = withMcr m (setBufferFlag n s) := by
  unfold setBufferFlag
  split
  · exact setGroupFlag_withMcr _ _ m s
  · rfl

/-- A write of another register neither reads `MCR` nor stores to it. -/
theorem regWrite_withMcr (c : Config) {r : Reg} (h : r ≠ .mcr) (V m : Word) (s : State) :
    regWrite c r V (withMcr m s) = withMcr m (regWrite c r V s) := by
  rw [regWrite_of_ne_mcr c r V _ h, regWrite_of_ne_mcr c r V _ h, maskedStore, withMcr_get m s h]
  exact setReg_withMcr h _ m s

/-- A buffer write reads `MCR` by `FRZACK` alone. -/
theorem mbWrite_withMcr (c : Config) (i : Nat) (V : Word) {m : Word} {s : State}
    (h : m.getLsbD c.frzackBit = s.regs.mcr.getLsbD c.frzackBit) :
    mbWrite c i V (withMcr m s) = withMcr m (mbWrite c i V s) := by
  have htrigger : txTrigger c i V (withMcr m s) = txTrigger c i V s := by
    have hfrozen : frozen c (withMcr m s) = frozen c s := h
    rw [txTrigger, hfrozen, txTrigger]
  cases ht : txTrigger c i V s with
  | false => rw [mbWrite_of_not_txTrigger (htrigger.trans ht), mbWrite_of_not_txTrigger ht, storeWord_withMcr]
  | true =>
    rw [mbWrite_of_txTrigger (htrigger.trans ht), mbWrite_of_txTrigger ht, storeWord_withMcr, bufferFrame_withMcr,
      send_withMcr, setBufferFlag_withMcr]

/-- A reception neither reads `MCR` nor stores to it (42_bus_client_receive.md R194). -/
theorem deliver_withMcr (c : Config) (f : Frame) (m : Word) (s : State) :
    deliver c f (withMcr m s) = withMcr m (deliver c f s) := by
  simp only [deliver, storeWord_withMcr, setGroupFlag_withMcr]

/-- Every operation but the three that are about `MCR` does the same under another `MCR` word, a buffer write under one
of the same `FRZACK`. -/
theorem exec_withMcr {i : Instr} {s : State} {m : Word} (hrd : i ≠ .rdMcr) (hwr : ∀ V, i ≠ .wrMcr V)
    (hreset : i ≠ .reset) (hmb : ∀ w V, i = .wrMb w V → m.getLsbD 24 = s.regs.mcr.getLsbD 24) :
    exec i (withMcr m s) = mapNext (withMcr m) (exec i s) := by
  cases i using Instr.byKind with
  | read r =>
    have hr : r ≠ .mcr := by rintro rfl; exact hrd rfl
    rw [exec_read, exec_read, withMcr_get m s hr]
    rfl
  | write r V =>
    have hr : r ≠ .mcr := by rintro rfl; exact hwr V rfl
    rw [exec_write, exec_write, regWrite_withMcr _ hr]
    rfl
  | rdMb w => rfl
  | wrMb w V =>
    rw [exec_wrMb, exec_wrMb, mbWrite_withMcr Config.default w.val V (hmb w V rfl)]
    rfl
  | rdUndecl off => rfl
  | wrUndecl off V => rfl
  | busAccept => rfl
  | busRx f =>
    cases haccept : canAccept Config.default s with
    | true =>
      rw [exec_busRx_of_canAccept haccept, exec_busRx_of_canAccept ((canAccept_withMcr _ m s).trans haccept),
        deliver_withMcr]
      rfl
    | false =>
      rw [exec_busRx_of_not_canAccept haccept, exec_busRx_of_not_canAccept ((canAccept_withMcr _ m s).trans haccept)]
      rfl
  | reset => exact absurd rfl hreset
  | refusedSize dir size off => rfl
  | refusedAlign dir off => rfl
  | refusedBus size func => rfl
  | refusedPlatform size func => rfl

/-- Settles O32: an operation commutes with the change of `MCR`, whether it completes or is refused. -/
theorem modeGatesOnlyTransmission : Obligations.ModeGatesOnlyTransmission := by
  intro i s m hrd hwr hreset hmb
  rw [exec_withMcr hrd hwr hreset hmb]
  exact ⟨fun t ht => by rw [ht]; rfl, fun e he => by rw [he]; rfl⟩

/-! ### The dispatcher (43_controller_core.md R200, R201) -/

theorem registerAt_ne_buffer (c : Config) (off : Offset) (i : Fin 512) : registerAt c off ≠ .buffer i := by
  unfold registerAt
  split <;> exact Region.noConfusion

/-- The word index of an access to a buffer word is the one its offset designates (20_memory.md R70). -/
theorem selIndexAt_of_region {c : Config} {off : Offset} {i : Fin 512} (h : region c off = .buffer i) (dir : Dir) :
    selIndexAt c (accessSel dir off) = i := by
  unfold region at h
  split_ifs at h
  · exact absurd h (registerAt_ne_buffer c off i)
  · injection h with h
    rw [selIndexAt, accessSel, selOffset_fieldSel, h]
  · exact absurd h (registerAt_ne_buffer c off i)

/-- An admitted access decodes to the operation of what its offset designates (30_encoding.md R93). -/
theorem decode_of_region {q : Request} {dir : Dir} {off : Offset} {designated : Region}
    (hsel : q.sel = accessSel dir off) (ha : off.aligned = true) (h : region Config.default off = designated) :
    decode q = operation (accessKind dir designated) q := by
  rw [decode, hsel, classify_aligned dir off ha, h]

/-- Decoding and running an admitted read is `MemRead` (R200). -/
theorem exec_decode_read {off : Offset} (ha : off.aligned = true) (s : State) :
    exec (decode (.bare (accessSel .read off))) s = .next (replyWord (memRead Config.default off s) s) := by
  unfold memRead
  cases hregion : region Config.default off with
  | reg r =>
    rw [decode_of_region (q := .bare (accessSel .read off)) rfl ha hregion]
    exact exec_read r s
  | buffer i =>
    rw [decode_of_region (q := .bare (accessSel .read off)) rfl ha hregion]
    exact congrArg (fun w => exec (.rdMb w) s) (selIndexAt_of_region hregion .read)
  | undeclared =>
    rw [decode_of_region (q := .bare (accessSel .read off)) rfl ha hregion]
    rfl

/-- Decoding and running an admitted write is `MemWrite` (R201). -/
theorem exec_decode_write {off : Offset} (ha : off.aligned = true) (V : Word) (s : State) :
    exec (decode (.withData (accessSel .write off) V)) s = .next (replyNone (memWrite Config.default off V s)) := by
  unfold memWrite
  cases hregion : region Config.default off with
  | reg r =>
    rw [decode_of_region (q := .withData (accessSel .write off) V) rfl ha hregion]
    exact exec_write r V s
  | buffer i =>
    rw [decode_of_region (q := .withData (accessSel .write off) V) rfl ha hregion]
    exact congrArg (fun w => exec (.wrMb w V) s) (selIndexAt_of_region hregion .write)
  | undeclared =>
    rw [decode_of_region (q := .withData (accessSel .write off) V) rfl ha hregion]
    rfl

/-- Settles O55: the table decides an admitted access by the region of its offset, as `MemRead` and `MemWrite` do. -/
theorem accessIsTheDispatcher : Obligations.AccessIsTheDispatcher := fun _ V s h =>
  ⟨exec_decode_read (beq_iff_eq.mpr h) s, exec_decode_write (beq_iff_eq.mpr h) V s⟩

/-! ### The refused selectors and the hard reset (43_controller_core.md R204, R207) -/

/-- Settles O8: each meaning is a refusal by name, whatever the operands. -/
theorem refusedSelectorsStop : Obligations.RefusedSelectorsStop := fun _ =>
  ⟨fun _ _ _ => rfl, fun _ _ => rfl, fun _ _ => rfl, fun _ _ => rfl⟩

/-- Settles O12: the registers and the store a hard reset leaves are those of construction, which fix the outputs. -/
theorem hardResetReloadsEverything : Obligations.HardResetReloadsEverything := by
  intro s
  obtain ⟨-, -, hmcr, hregs, -, hirq, haccept, hmode⟩ := constructionGivesTheResetState
  exact ⟨_, rfl, hmcr, hregs, Memory.readByte_nil, Memory.readWord_nil, rfl, rfl, rfl, hirq, haccept, hmode⟩

end Sys2Proof.Machine

namespace Sys2Proof.Machine

/-! ### The sources of the IRQ level (60_exceptions.md R224, R225) -/

/-- A masked word is nonzero when some bit is set in the word and in the mask. -/
theorem and_ne_zero_iff_exists_bit (m f : Word) :
    m &&& f ≠ 0#32 ↔ ∃ b < 32, f.getLsbD b = true ∧ m.getLsbD b = true := by
  simp only [Ne, BitVec.zero_iff_eq_false, not_forall, Bool.not_eq_false, BitVec.getLsbD_and, Bool.and_eq_true]
  exact ⟨fun ⟨b, hm, hf⟩ => ⟨b, BitVec.lt_of_getLsbD hf, hf, hm⟩, fun ⟨b, _, hf, hm⟩ => ⟨b, hm, hf⟩⟩

/-- The flags of buffers 0 to 31 are the bits of `IFLAG1`. -/
theorem bufferFlag_of_lt {b : Nat} (hb : b < 32) (s : State) : bufferFlag b s = s.regs.iflag1.getLsbD b := by
  have hflagged : b < 32 * flagGroups := Nat.lt_trans hb (by decide)
  rw [bufferFlag, decide_eq_true hflagged, Bool.true_and, Nat.div_eq_of_lt hb, Nat.mod_eq_of_lt hb]
  rfl

/-- The flags of buffers 32 to 63 are the bits of `IFLAG2`. -/
theorem bufferFlag_add {b : Nat} (hb : b < 32) (s : State) : bufferFlag (32 + b) s = s.regs.iflag2.getLsbD b := by
  have hflagged : 32 + b < 32 * flagGroups := Nat.add_lt_add_left hb 32
  have hgroup : (32 + b) / 32 = 1 := by omega
  rw [bufferFlag, decide_eq_true hflagged, Bool.true_and, hgroup, Nat.add_mod_left, Nat.mod_eq_of_lt hb]
  rfl

/-- The masks of sources 0 to 31 are the bits of `IMASK1`. -/
theorem bufferMask_of_lt {b : Nat} (hb : b < 32) (s : State) : bufferMask b s = s.regs.imask1.getLsbD b :=
  if_pos hb

/-- The masks of sources 32 to 63 are the bits of `IMASK2`. -/
theorem bufferMask_add {b : Nat} (hb : b < 32) (s : State) : bufferMask (32 + b) s = s.regs.imask2.getLsbD b := by
  have hflagged : 32 + b < 32 * flagGroups := Nat.add_lt_add_left hb 32
  rw [bufferMask, if_neg (by omega), decide_eq_true hflagged, Bool.true_and, Nat.add_sub_cancel_left]

/-- Settles O33: a group raises the level by a bit set in both its registers, and the bits of the two groups are the
sources 0 to 31 and 32 to 63. -/
theorem irqIsSomePendingEnabledSource : Obligations.IrqIsSomePendingEnabledSource := by
  intro s
  rw [irq_eq_true_iff, and_ne_zero_iff_exists_bit, and_ne_zero_iff_exists_bit]
  constructor
  · rintro (⟨b, hb, hflag, hmask⟩ | ⟨b, hb, hflag, hmask⟩)
    · exact ⟨b, by omega, (bufferFlag_of_lt hb s).trans hflag, (bufferMask_of_lt hb s).trans hmask⟩
    · exact ⟨32 + b, by omega, (bufferFlag_add hb s).trans hflag, (bufferMask_add hb s).trans hmask⟩
  · rintro ⟨n, hn, hflag, hmask⟩
    rcases Nat.lt_or_ge n 32 with hlow | hhigh
    · exact .inl ⟨n, hlow, (bufferFlag_of_lt hlow s).symm.trans hflag, (bufferMask_of_lt hlow s).symm.trans hmask⟩
    · obtain ⟨b, rfl⟩ := Nat.exists_eq_add_of_le hhigh
      have hb : b < 32 := by omega
      exact .inr ⟨b, hb, (bufferFlag_add hb s).symm.trans hflag, (bufferMask_add hb s).symm.trans hmask⟩

/-! ### What changes the IRQ level (60_exceptions.md R226) -/

/-- At a valid record a register write that changes the IRQ level wrote one of the four interrupt registers, or `MCR` with
`SOFTRST`: every other write is isolated from them. -/
theorem regWrite_of_irq_changed {c : Config} (hc : c.Valid) {r : Reg} {V : Word} {s : State}
    (h : irq (regWrite c r V s) ≠ irq s) :
    r = .imask1 ∨ r = .imask2 ∨ r = .iflag1 ∨ r = .iflag2 ∨ (r = .mcr ∧ V.getLsbD c.softrstBit = true) := by
  by_contra hnot
  simp only [not_or] at hnot
  obtain ⟨himask1, himask2, hiflag1, hiflag2, hsoft⟩ := hnot
  have hkept (q : Reg) (hq : q ≠ r) : (regWrite c r V s).regs.get q = s.regs.get q :=
    regWrite_get_isolated hc r q V s hq fun ⟨hr, hV, _⟩ => hsoft ⟨hr, hV⟩
  exact h (irq_congr (hkept .imask1 (Ne.symm himask1)) (hkept .imask2 (Ne.symm himask2))
    (hkept .iflag1 (Ne.symm hiflag1)) (hkept .iflag2 (Ne.symm hiflag2)))

/-- Buffers 64 to 127 own no flag (41_message_buffer_store.md R176). -/
theorem setBufferFlag_of_le {n : Nat} (h : 64 ≤ n) (s : State) : setBufferFlag n s = s :=
  if_neg (Nat.not_lt.mpr h)

/-- A buffer write that changes the IRQ level transmits from a buffer that owns a flag: any other leaves every register. -/
theorem mbWrite_of_irq_changed {c : Config} {i : Nat} {V : Word} {s : State} (h : irq (mbWrite c i V s) ≠ irq s) :
    txTrigger c i V s = true ∧ i / 4 < 64 := by
  rcases mbWrite_cases c i V s with ⟨-, hw⟩ | ⟨htrigger, hw⟩ <;> rw [hw] at h
  · exact absurd rfl h
  · refine ⟨htrigger, Nat.lt_of_not_le fun hn => h ?_⟩
    rw [setBufferFlag_of_le hn]
    rfl

/-- Settles O35: a write off the list leaves all four interrupt registers alone. -/
theorem irqChangesOnlyWhereListedAtEveryRecord : Obligations.IrqChangesOnlyWhereListedAtEveryRecord :=
  fun _ _ hc => ⟨fun _ _ => regWrite_of_irq_changed hc, fun _ _ => mbWrite_of_irq_changed⟩

/-- Settles O34, by the case of the operation: its answer alone changes no register, and the register and buffer writes
that change the level are those listed at every record. -/
theorem irqChangesOnlyWhereListed : Obligations.IrqChangesOnlyWhereListed := by
  intro i s t h
  refine exec_next_elim (motive := fun t => irq t ≠ irq s → _) h ?answer ?write ?wrMb ?busRx ?reset
  case answer => exact fun _ hchanged => absurd rfl hchanged
  case write =>
    rintro r V rfl hchanged
    rcases regWrite_of_irq_changed defaultRecordIsValid hchanged with rfl | rfl | rfl | rfl | ⟨rfl, hV⟩
    · exact .inl ⟨V, .inl rfl⟩
    · exact .inl ⟨V, .inr (.inl rfl)⟩
    · exact .inl ⟨V, .inr (.inr (.inl rfl))⟩
    · exact .inl ⟨V, .inr (.inr (.inr rfl))⟩
    · exact .inr (.inl ⟨V, rfl, hV⟩)
  case wrMb =>
    intro w V hi hchanged
    obtain ⟨htrigger, -⟩ := mbWrite_of_irq_changed hchanged
    exact .inr (.inr (.inl ⟨w, V, hi, (txTrigger_default_iff w.val V s).mp htrigger⟩))
  case busRx => exact fun f hi _ => .inr (.inr (.inr (.inl ⟨f, hi⟩)))
  case reset => exact fun hi _ => .inr (.inr (.inr (.inr hi)))

/-! ### What clears a flag (60_exceptions.md R225; 10_state.md R30) -/

/-- At a valid record a write of any register but the two flag registers leaves every flag alone, a soft reset among
them. -/
theorem bufferFlag_regWrite_of_ne {c : Config} (hc : c.Valid) {r : Reg} (h1 : r ≠ .iflag1) (h2 : r ≠ .iflag2) (V : Word)
    (s : State) (n : Nat) : bufferFlag n (regWrite c r V s) = bufferFlag n s :=
  bufferFlag_congr (regWrite_get_isolated hc r .iflag1 V s h1.symm fun ⟨_, _, hreload⟩ => absurd hreload (by decide))
    (regWrite_get_isolated hc r .iflag2 V s h2.symm fun ⟨_, _, hreload⟩ => absurd hreload (by decide)) n

/-- A register write that clears a flag writes a 1 to the flag's own bit. -/
theorem regWrite_of_bufferFlag_cleared {r : Reg} {V : Word} {s : State} {n : Nat} (hset : bufferFlag n s = true)
    (hclear : bufferFlag n (regWrite Config.default r V s) = false) :
    (r = .iflag1 ∧ n < 32 ∧ V.getLsbD n = true) ∨ (r = .iflag2 ∧ 32 ≤ n ∧ V.getLsbD (n - 32) = true) := by
  by_cases h1 : r = .iflag1
  · rw [h1, bufferFlag_wrIflag1, hset, Bool.true_and, Bool.not_eq_false', Bool.and_eq_true, decide_eq_true_iff] at hclear
    exact .inl ⟨h1, hclear⟩
  by_cases h2 : r = .iflag2
  · rw [h2, bufferFlag_wrIflag2, hset, Bool.true_and, Bool.not_eq_false', Bool.and_eq_true, decide_eq_true_iff] at hclear
    exact .inr ⟨h2, hclear⟩
  rw [bufferFlag_regWrite_of_ne defaultRecordIsValid h1 h2, hset] at hclear
  exact absurd hclear.symm Bool.false_ne_true

/-- A reception clears no flag. -/
theorem bufferFlag_deliver_of_set (f : Frame) {s : State} {n : Nat} (h : bufferFlag n s = true) :
    bufferFlag n (deliver Config.default f s) = true := by
  rw [bufferFlag_deliver, h, Bool.true_or]

/-- Settles O37, by the case of the operation: buffer writes and receptions only set flags, and of the register writes
only a written 1 clears one. -/
theorem flagsAreClearedOnlyByWriteOrReset : Obligations.FlagsAreClearedOnlyByWriteOrReset := by
  intro i s t n h hset
  refine exec_next_elim (motive := fun t => bufferFlag n.val t = false → _) h ?answer ?write ?wrMb ?busRx ?reset
  case answer => exact fun _ hclear => absurd hset (Bool.eq_false_iff.mp hclear)
  case write =>
    rintro r V rfl hclear
    rcases regWrite_of_bufferFlag_cleared hset hclear with ⟨rfl, hbit⟩ | ⟨rfl, hbit⟩
    · exact .inl ⟨V, rfl, hbit⟩
    · exact .inr (.inl ⟨V, rfl, hbit⟩)
  case wrMb =>
    exact fun w V _ hclear => absurd (bufferFlag_mbWrite_of_set _ w.val V hset) (Bool.eq_false_iff.mp hclear)
  case busRx => exact fun f _ hclear => absurd (bufferFlag_deliver_of_set f hset) (Bool.eq_false_iff.mp hclear)
  case reset => exact fun hi _ => .inr (.inr hi)

end Sys2Proof.Machine
